-- ==== Sys2Proof/Word.lean ====
section
/-! DEFINITION. The widths of 00_scope.md rule R11 and 30_encoding.md rule R70, as abbreviations. -/

namespace Sys2Proof

/-- A ring byte, an enable mask, or one value of the eight data lines (00_scope.md R11). -/
abbrev Byte := BitVec 8

/-- A command word (30_encoding.md R70). -/
abbrev Command := BitVec 16

/-- A codeword in its 16-bit container (30_encoding.md R77). -/
abbrev Codeword := BitVec 16

/-- The twelve stages of one shift chain, or one output latch (10_state.md R30, R31). -/
abbrev Stages := BitVec 12

end Sys2Proof
end

