-- ==== Sys2Proof/Config.lean ====
section
/-! DEFINITION. The implementation parameters of 00_scope.md section 4, and the free values. The parameters the
spec leaves OPEN, and every value it calls a draw, are constants with no body: nothing can be proved of their values. -/

namespace Sys2Proof

/-- `LDOT_BIT`, the codeword bit of the left dot, 9 or 10 (00_scope.md R9). -/
inductive LeftDot
  | bit9
  | bit10
deriving DecidableEq, Repr, Inhabited

/-- The implementation parameters, and the two platform properties that decide whether the spec gives the platform a
meaning (00_scope.md R6 to R10, 20_memory.md R61, 70_reset_and_hazards.md R208, R209). -/
structure Params where
  /-- `k` of `N = 2^k` (R6). -/
  logN : Nat
  /-- `IDX_W` (R7). -/
  idxW : Nat
  /-- `ATOMIC_OPS` (R8). -/
  atomicOps : Bool
  /-- `LDOT_BIT` (R9). -/
  leftDot : LeftDot
  /-- `ENABLE_RESET` (R10). -/
  enableReset : Byte
  /-- `POL_RESET` (R10). -/
  polReset : BitVec 1
  /-- `BASE`, if the command port is memory-mapped; no rule reads it (R61). -/
  base : Option Nat
  /-- The platform reads or writes an index in pieces (R208). -/
  tornIndex : Bool
  /-- The platform reorders slot and index accesses (R209). -/
  reordered : Bool
deriving DecidableEq, Repr

/-- OPEN (00_scope.md R9). DESIGN CHOICE, safe: log 2. -/
opaque Config.leftDot : LeftDot

/-- OPEN (00_scope.md R10). DESIGN CHOICE, safe: log 2. -/
opaque Config.enableReset : Byte

/-- OPEN (00_scope.md R10). DESIGN CHOICE, safe: log 2. -/
opaque Config.polReset : BitVec 1

/-- OPEN (20_memory.md R61). DESIGN CHOICE, safe: log 2. -/
opaque Config.base : Option Nat

/-- `draw_8` of 00_scope.md R13: a free byte for each value of the state's counter. DESIGN CHOICE, safe: log 11. -/
opaque Config.draw8 : Nat → Byte

/-- `draw_12` of 00_scope.md R13: a free 12-bit value for each value of the state's counter. DESIGN CHOICE, safe: log 11. -/
opaque Config.draw12 : Nat → Stages

/-- The spec's defaults, with every OPEN parameter left open. DESIGN CHOICE, safe: log 1. -/
def Params.shipped : Params :=
  { logN := 8, idxW := 16, atomicOps := true, leftDot := Config.leftDot, enableReset := Config.enableReset,
    polReset := Config.polReset, base := Config.base, tornIndex := false, reordered := false }

end Sys2Proof
end

