-- ==== Sys2Proof/Syntax.lean ====
section
/-! DEFINITION. The operations of 30_encoding.md R71, the pseudo-operations of R83, the two ports and the refusal reasons. -/

namespace Sys2Proof

/-- The block's operations, one constructor a row of spec/opcode_table.json (30_encoding.md R71, R72). -/
inductive Instr
  /-- PUSH (41_ring.md R100). -/
  | push (data : Byte)
  /-- POP (41_ring.md R102). -/
  | pop
  /-- AVAIL (41_ring.md R104). -/
  | avail
  /-- SETCFG, in the operand order of its syntax (42_display_encode.md R122, 30_encoding.md R82). -/
  | setcfg (en : Byte) (pol : BitVec 1)
  /-- LOADPOS (42_display_encode.md R123). -/
  | loadpos (pos : BitVec 3) (sym : BitVec 4)
  /-- SHOW (43_display_drive.md R140). -/
  | showOut
  /-- SHIFT (43_display_drive.md R142). -/
  | shift (data : Byte)
  /-- LATCH (43_display_drive.md R143). -/
  | latch
deriving DecidableEq, Repr

/-- The two ports (10_state.md R35, R36). -/
inductive Port
  | producer
  | foreground
deriving DecidableEq, Repr

/-- The closed list of refusal reasons (60_exceptions.md R181). -/
inductive RefuseReason
  | reservedOpcode
  | reservedField
  | wrongPort
  | reservedSymbol
  | operandRange
deriving DecidableEq, Repr

/-- What one display position shows (30_encoding.md R75). -/
inductive Symbol
  | digit (d : Fin 10)
  | dot
  | sign
  | blank
deriving DecidableEq, Repr

/-- The display command surface: no command word of its own (30_encoding.md R83, 44_render.md R160 to R165). -/
inductive Pseudo
  /-- RENDER_TEXT. -/
  | text (s : List Byte) (sign : Bool)
  /-- RENDER_NUMERIC. -/
  | numeric (s : List Byte)
  /-- RENDER_DECIMAL. -/
  | decimal (s : List Byte)
  /-- RENDER_TIME. -/
  | time (hh mm ss : Int)
  /-- RENDER_DIGITS; entry `p` goes to position `p`. -/
  | digits (d : Vector Int 8)
deriving DecidableEq, Repr

/-- One request of the FOREGROUND agent: a command word, or a pseudo-operation that stands for a sequence of them. -/
inductive Request
  | command (cmd : Command)
  | pseudo (p : Pseudo)
deriving DecidableEq, Repr

end Sys2Proof
end

