-- ==== Sys2Proof/Machine/Operands.lean ====
section
/-! DEFINITION. The operand forms: symbol codes, positions, data-line bits, the CFG word and the POP result. -/

namespace Sys2Proof.Machine

/-- The symbol a code names; none for the reserved codes 0xC, 0xD and 0xE (30_encoding.md R75, R76). -/
def symbolOf (sym : BitVec 4) : Option Symbol :=
  if h : sym.toNat < 10 then some (.digit ⟨sym.toNat, h⟩)
  else if sym = 0xA#4 then some .dot
  else if sym = 0xB#4 then some .sign
  else if sym = 0xF#4 then some .blank
  else none

/-- The code of a symbol (30_encoding.md R75). -/
def symbolCode : Symbol → BitVec 4
  | .digit d => BitVec.ofNat 4 d.val
  | .dot => 0xA#4
  | .sign => 0xB#4
  | .blank => 0xF#4

/-- The reserved symbol codes (30_encoding.md R76). -/
def reservedSymbol (sym : BitVec 4) : Bool := sym == 0xC#4 || sym == 0xD#4 || sym == 0xE#4

/-- `POS` as a logical position; every value of the field is one (30_encoding.md R72). -/
def position (pos : BitVec 3) : Fin 8 := ⟨pos.toNat, pos.isLt⟩

/-- Position `p` feeds physical line `7 - p`; the same reversal takes a line back to its position (43_display_drive.md R141). -/
def reversed (p : Fin 8) : Fin 8 := ⟨7 - p.val, by omega⟩

/-- One value for each of the eight positions or lines. -/
def eachOfEight {α : Type} (f : Fin 8 → α) : Vector α 8 := #v[f 0, f 1, f 2, f 3, f 4, f 5, f 6, f 7]

/-- The byte whose bit `L` is line `L` (43_display_drive.md R140). -/
def lineByte (f : Fin 8 → Bool) : Byte := BitVec.ofBoolListLE [f 0, f 1, f 2, f 3, f 4, f 5, f 6, f 7]

/-- The 9-bit CFG word: POL above EN (10_state.md R28). -/
def configWord (en : Byte) (pol : BitVec 1) : BitVec 9 := pol ++ en

/-- `CFG.EN` (10_state.md R28). -/
def configEn (cfg : BitVec 9) : Byte := cfg.extractLsb' 0 8

/-- `CFG.POL` (10_state.md R28). -/
def configPol (cfg : BitVec 9) : BitVec 1 := cfg.extractLsb' 8 1

/-- The 9-bit POP result: EMPTY above the byte (30_encoding.md R78). -/
def popResult (empty : Bool) (v : Byte) : BitVec 9 := BitVec.ofBool empty ++ v

end Sys2Proof.Machine
end

