-- ==== Sys2Proof/Machine/State.lean ====
section
/-! DEFINITION. The machine's state as plain data, the reasons a step can stop, and reset. INVENTORY.md lists every field
with its rule. -/

namespace Sys2Proof.Machine

/-- The reasons a step can stop with a fault. The block itself raises no exception (60_exceptions.md R180). -/
inductive Fault
  /-- Raised by the slot access primitives on a slot number `N` or above, which the ring storage space does not have
  (20_memory.md R50). Safe: no operation reaches it, because every slot number is an index modulo `N` (log 19). -/
  | noSuchSlot
deriving DecidableEq, Repr

/-- The reasons a step can be refused by the model. A refused COMMAND is no such reason: it sets REFUSED and goes on
(60_exceptions.md R181). -/
inductive Refusal
  /-- Raised by an arm of `exec` whose instruction has no meaning yet; no arm raises it. Safe. -/
  | notModelled (mnemonic : String)
  /-- Raised by `step` for parameters outside 00_scope.md R6 and R7, which 92_eei_decisions.md D3 refuses as a
  configuration. Safe (log 12). -/
  | parametersOutOfRange
  /-- Raised by `step` for a platform with torn index accesses, which 70_reset_and_hazards.md R208 refuses as a
  configuration. Safe (log 12). -/
  | tornIndexPlatform
deriving DecidableEq, Repr

/-- The ring storage: the slots that do not hold `unwrittenByte`, slot numbers strictly rising. -/
abbrev Memory := List Host.Cell

/-- What an unlisted slot reads as. DESIGN CHOICE, unsafe: log 3. -/
def unwrittenByte : Byte := 0#8

/-- The canonical form: slot numbers strictly rising, no entry that an unlisted slot reads as. -/
def Memory.wf (m : Memory) : Bool :=
  decide (m.Pairwise fun a b => a.1 < b.1) && m.all fun c => c.2 != unwrittenByte

/-- The foreground POP or AVAIL under way with ATOMIC_OPS = false: the next micro-step, and the locals it has read
(70_reset_and_hazards.md R210). -/
inductive MicroOp
  /-- POP, before C2. -/
  | popC2 (rl : Nat)
  /-- POP, before C3. -/
  | popC3 (rl wl : Nat)
  /-- POP, before C4. -/
  | popC4 (rl : Nat)
  /-- POP, before C5. -/
  | popC5 (rl : Nat) (v : Byte)
  /-- POP, before C6. -/
  | popC6 (v : Byte)
  /-- AVAIL, before A2. -/
  | availA2 (wl : Nat)
  /-- AVAIL, before A3. -/
  | availA3 (wl rl : Nat)
deriving DecidableEq, Repr

/-- A result handed back to FOREGROUND (10_state.md R34, 30_encoding.md R78, R79). -/
inductive Result
  | pop (res : BitVec 9)
  | avail (count : Nat)
deriving DecidableEq, Repr

/-- Who moves next: the interrupt context, the foreground context, or a restart from outside (60_exceptions.md R185,
70_reset_and_hazards.md R200). DESIGN CHOICE, safe: log 6, log 10. -/
inductive Turn
  | producer
  | foreground
  | restart
deriving DecidableEq, Repr

/-- Everything the spec gives the block, then the model's own fields. -/
structure State where
  /-- The parameters of 00_scope.md R6 to R10; never written (70_reset_and_hazards.md R202). -/
  params : Params
  /-- `w`, an unsigned number below `2^IDX_W` (10_state.md R22; log 17). -/
  w : Nat
  /-- `r`, an unsigned number below `2^IDX_W` (10_state.md R23; log 17). -/
  r : Nat
  /-- `buf` (10_state.md R24). -/
  buf : Memory
  /-- `CFG`: EN in bits 7:0, POL in bit 8 (10_state.md R28). -/
  cfg : BitVec 9
  /-- `DCODE[0..7]`, by logical position (10_state.md R29). -/
  dcode : Vector Codeword 8
  /-- `S[0..7]`, by physical line (10_state.md R30). -/
  chain : Vector Stages 8
  /-- `O[0..7]`, by physical line (10_state.md R31). -/
  latch : Vector Stages 8
  /-- `DL[7:0]` (10_state.md R32). -/
  dl : Byte
  /-- `SCLK`, asserted (10_state.md R32; log 5). -/
  sclk : Bool
  /-- `LAT`, asserted (10_state.md R32; log 5). -/
  lat : Bool
  /-- `REFUSED` (60_exceptions.md R181). -/
  refused : Bool
  /-- The foreground operation whose micro-steps are under way (70_reset_and_hazards.md R210). -/
  inFlight : Option MicroOp
  /-- The model's own: the results handed back so far, oldest first. DESIGN CHOICE, safe: log 8. -/
  results : List Result
  /-- The model's own: what PRODUCER has yet to issue, oldest first. DESIGN CHOICE, safe: log 6. -/
  producerPort : List Command
  /-- The model's own: what FOREGROUND has yet to issue, oldest first. DESIGN CHOICE, safe: log 6. -/
  foregroundPort : List Request
  /-- The model's own: who moves next, oldest first. DESIGN CHOICE, safe: log 6. -/
  turns : List Turn
  /-- The model's own: how many free values have been used. DESIGN CHOICE, safe: log 11. -/
  draws : Nat
deriving DecidableEq, Repr

/-! Plain updates, one a field. -/

def State.setW (s : State) (v : Nat) : State := { s with w := v }
def State.setR (s : State) (v : Nat) : State := { s with r := v }
def State.setBuf (s : State) (v : Memory) : State := { s with buf := v }
def State.setCfg (s : State) (v : BitVec 9) : State := { s with cfg := v }
def State.setDcode (s : State) (v : Vector Codeword 8) : State := { s with dcode := v }
def State.setChain (s : State) (v : Vector Stages 8) : State := { s with chain := v }
def State.setLatch (s : State) (v : Vector Stages 8) : State := { s with latch := v }
def State.setDl (s : State) (v : Byte) : State := { s with dl := v }
def State.setSclk (s : State) (v : Bool) : State := { s with sclk := v }
def State.setLat (s : State) (v : Bool) : State := { s with lat := v }
def State.setRefused (s : State) (v : Bool) : State := { s with refused := v }
def State.setInFlight (s : State) (v : Option MicroOp) : State := { s with inFlight := v }
def State.setResults (s : State) (v : List Result) : State := { s with results := v }
def State.setProducerPort (s : State) (v : List Command) : State := { s with producerPort := v }
def State.setForegroundPort (s : State) (v : List Request) : State := { s with foregroundPort := v }
def State.setTurns (s : State) (v : List Turn) : State := { s with turns := v }
def State.setDraws (s : State) (v : Nat) : State := { s with draws := v }

/-- The draws of one reset (70_reset_and_hazards.md R200). -/
structure Draws where
  slot : Nat → Byte
  chain : Fin 8 → Stages
  latch : Fin 8 → Stages
  dl : Byte

/-- The value the model names for every draw at power-on. DESIGN CHOICE, unsafe: log 3, log 4. -/
def Draws.zero : Draws := { slot := fun _ => unwrittenByte, chain := fun _ => 0#12, latch := fun _ => 0#12, dl := 0#8 }

/-- The drawn contents of `n` slots, in canonical form. -/
def drawnSlots (n : Nat) (slot : Nat → Byte) : Memory :=
  (List.range n).filterMap fun i => if slot i = unwrittenByte then none else some (i, slot i)

/-- RESET of 70_reset_and_hazards.md R200, for any parameters and any draws; the model's own fields are empty. -/
def State.resetWith (p : Params) (d : Draws) : State :=
  { params := p, w := 0, r := 0, buf := drawnSlots (2 ^ p.logN) d.slot, cfg := configWord p.enableReset p.polReset,
    dcode := eachOfEight fun _ => 0x0000#16, chain := eachOfEight d.chain, latch := eachOfEight d.latch, dl := d.dl,
    sclk := false, lat := false, refused := false, inFlight := none, results := [], producerPort := [],
    foregroundPort := [], turns := [], draws := 0 }

/-- The machine right after power-on: the shipped parameters, every draw at the value the model names, memory with
nothing listed (log 1 to log 4). -/
def State.reset : State := { State.resetWith Params.shipped Draws.zero with buf := [] }

end Sys2Proof.Machine
end

