-- ==== Sys2Proof/Machine/Ops.lean ====
section
/-! DEFINITION. The named operations over the ring storage, the indices, the results and the refusal mark. -/

namespace Sys2Proof.Machine

/-- `N`, the ring capacity in bytes (00_scope.md R6). -/
def capacity (p : Params) : Nat := 2 ^ p.logN

/-- `2^IDX_W`, the modulus of index arithmetic (00_scope.md R7, R13). -/
def indexModulus (p : Params) : Nat := 2 ^ p.idxW

/-- Why the model gives a configuration no meaning, if it gives it none: 00_scope.md R6 and R7 (92_eei_decisions.md D3),
and 70_reset_and_hazards.md R208. -/
def configurationRefusal (p : Params) : Option Refusal :=
  if ¬(1 ≤ p.logN ∧ p.logN + 1 ≤ p.idxW ∧ 16 ≤ p.idxW) then some .parametersOutOfRange
  else if p.tornIndex then some .tornIndexPlatform
  else none

/-- The address of an index (20_memory.md R50). -/
def slotOf (p : Params) (i : Nat) : Nat := i % capacity p

/-- An index after the one `i` (00_scope.md R13). -/
def nextIndex (p : Params) (i : Nat) : Nat := (i + 1) % indexModulus p

/-- The byte a slot holds. -/
def Memory.read : Memory → Nat → Byte
  | [], _ => unwrittenByte
  | (a, b) :: m, k => if a = k then b else Memory.read m k

/-- A slot's entry put in its place. -/
def Memory.insert : Memory → Nat → Byte → Memory
  | [], k, v => [(k, v)]
  | (a, b) :: m, k, v => if k < a then (k, v) :: (a, b) :: m else (a, b) :: Memory.insert m k v

/-- Storing a byte in a slot; the canonical form is kept. -/
def Memory.write (m : Memory) (k : Nat) (v : Byte) : Memory :=
  let others := m.filter fun c => c.1 != k
  if v = unwrittenByte then others else Memory.insert others k v

/-- `MemRead(a, 1)` (00_scope.md R13); none outside the slots `0..N-1` (20_memory.md R50). -/
def memRead (s : State) (a : Nat) : Option Byte :=
  if a < capacity s.params then some (Memory.read s.buf a) else none

/-- `MemWrite(a, 1, b)` (00_scope.md R13); none outside the slots `0..N-1` (20_memory.md R50). -/
def memWrite (s : State) (a : Nat) (b : Byte) : Option State :=
  if a < capacity s.params then some (s.setBuf (Memory.write s.buf a b)) else none

/-- An access to a slot that does not exist stops the machine (log 19). -/
def orNoSuchSlot : Option State → Host.Outcome State Fault Refusal
  | some s => .next s
  | none => .fault .noSuchSlot

/-- `refuse` of 00_scope.md R13: the refusal mark is set and nothing else changes (60_exceptions.md R181; log 9). -/
def refuse (s : State) : State := s.setRefused true

/-- `return v` of 00_scope.md R13: the result goes back to the agent that issued the operation (10_state.md R34). -/
def giveResult (s : State) (v : Result) : State := s.setResults (s.results ++ [v])

/-- The draws of a restart: free values numbered on from the state's counter (log 11). -/
def freeDraws (s : State) : Draws :=
  { slot := fun i => Config.draw8 (s.draws + i), chain := fun l => Config.draw12 (s.draws + l.val),
    latch := fun l => Config.draw12 (s.draws + 8 + l.val), dl := Config.draw8 (s.draws + capacity s.params) }

/-- A restart: RESET of 70_reset_and_hazards.md R200 with free draws. The parameters stay (R202), and so do the agents' own
streams and what they have been handed back (log 10). -/
def restart (s : State) : State :=
  { State.resetWith s.params (freeDraws s) with
    results := s.results, producerPort := s.producerPort, foregroundPort := s.foregroundPort, turns := s.turns,
    draws := s.draws + capacity s.params + 16 }

end Sys2Proof.Machine
end

