-- ==== Sys2Proof/Machine/Encoder.lean ====
section
/-! DEFINITION. The NixieEncoder: codewords, the finalisation of a position, SETCFG and LOADPOS (42_display_encode.md). -/

namespace Sys2Proof.Machine

/-- `LDOT_BIT` (00_scope.md R9). -/
def leftDotBit (p : Params) : Nat :=
  match p.leftDot with
  | .bit9 => 9
  | .bit10 => 10

/-- `RDOT_BIT = 19 - LDOT_BIT` (00_scope.md R9). -/
def rightDotBit (p : Params) : Nat := 19 - leftDotBit p

/-- `DIGIT_BIT(d)` (42_display_encode.md R121; log 23). -/
def digitBit (d : Fin 10) : Nat := if d = 0 then 11 else d.val - 1

/-- `CW(sym)`, the active-high codeword of a symbol (42_display_encode.md R120). -/
def codeword (p : Params) : Symbol → Codeword
  | .digit d => 1#16 <<< digitBit d
  | .dot => 1#16 <<< leftDotBit p
  | .sign => (1#16 <<< leftDotBit p) ||| (1#16 <<< rightDotBit p)
  | .blank => 0x000#16

/-- `CFG.EN[p] = 1` (10_state.md R28; log 23). -/
def positionEnabled (s : State) (p : Fin 8) : Bool := (configEn s.cfg)[p]

/-- `FIN(p)`, the final codeword of logical position `p` (42_display_encode.md R124). -/
def finalCode (s : State) (p : Fin 8) : Codeword :=
  let c := if positionEnabled s p then s.dcode[p] else 0x0000#16
  if configPol s.cfg = 1#1 then c ^^^ 0x0FFF#16 else c

/-- SETCFG (42_display_encode.md R122). -/
def execSetcfg (en : Byte) (pol : BitVec 1) (s : State) : Host.Outcome State Fault Refusal :=
  .next (s.setCfg (configWord en pol))

/-- LOADPOS; a reserved symbol is refused (42_display_encode.md R123; log 18). -/
def execLoadpos (pos : BitVec 3) (sym : BitVec 4) (s : State) : Host.Outcome State Fault Refusal :=
  match symbolOf sym with
  | none => .next (refuse s)
  | some y => .next (s.setDcode (s.dcode.set (position pos).val (codeword s.params y) (position pos).isLt))

end Sys2Proof.Machine
end

