-- ==== Sys2Proof/Machine/Driver.lean ====
section
/-! DEFINITION. The DisplayDriver: SHIFT, LATCH and SHOW (43_display_drive.md). -/

namespace Sys2Proof.Machine

/-- One chain takes in one bit: stage j moves to j+1, stage 11's bit is lost (43_display_drive.md R142). -/
def shiftIn (c : Stages) (bit : Bool) : Stages := (c <<< 1) ||| (BitVec.ofBool bit).setWidth 12

/-- SHIFT: the lines are driven, the shift clock is asserted, every chain takes in its line's bit, and the clock is
released (43_display_drive.md R142). -/
def shiftChains (d : Byte) (s : State) : State :=
  let driven := (s.setDl d).setSclk true
  (driven.setChain (eachOfEight fun l => shiftIn s.chain[l] d[l])).setSclk false

/-- LATCH: the latch line is asserted, all eight chains are copied in one step, and the line is released
(43_display_drive.md R143). -/
def latchChains (s : State) : State := ((s.setLat true).setLatch s.chain).setLat false

/-- `P[L] = F[7 - L]`, the codeword of physical line `L` (43_display_drive.md R141). -/
def physicalCode (s : State) (l : Fin 8) : Codeword := finalCode s (reversed l)

/-- The SHIFT operand of bit `b`: bit `L` is `P[L][b]` (43_display_drive.md R140). -/
def shiftOperand (codes : Fin 8 → Codeword) (b : Nat) : Byte := lineByte fun l => (codes l).getLsbD b

/-- The order in which the twelve bits go out, most significant first (43_display_drive.md R140). -/
def bitOrder : List Nat := [11, 10, 9, 8, 7, 6, 5, 4, 3, 2, 1, 0]

/-- The twelve SHIFT operands of a SHOW, in the order they are sent (43_display_drive.md R140). -/
def showOperands (s : State) : List Byte := bitOrder.map (shiftOperand (physicalCode s))

/-- A sequence of SHIFTs. -/
def shiftAll (ds : List Byte) (s : State) : State := ds.foldl (fun t d => shiftChains d t) s

/-- SHOW (43_display_drive.md R140). -/
def execShowOut (s : State) : Host.Outcome State Fault Refusal := .next (latchChains (shiftAll (showOperands s) s))

/-- SHIFT (43_display_drive.md R142). -/
def execShift (d : Byte) (s : State) : Host.Outcome State Fault Refusal := .next (shiftChains d s)

/-- LATCH (43_display_drive.md R143). -/
def execLatch (s : State) : Host.Outcome State Fault Refusal := .next (latchChains s)

end Sys2Proof.Machine
end

