-- ==== Sys2Proof/Machine/Flags.lean ====
section
/-! DEFINITION. The ring's status conditions, which are computed and never stored (10_state.md R25, R26). -/

namespace Sys2Proof.Machine

/-- `avail(w, r) = (w - r) mod 2^IDX_W` (10_state.md R25). -/
def availOf (p : Params) (w r : Nat) : Nat := (w + (indexModulus p - r % indexModulus p)) % indexModulus p

/-- The number of bytes the ring holds (41_ring.md R104). -/
def availCount (s : State) : Nat := availOf s.params s.w s.r

/-- `EMPTY` is `w = r` (10_state.md R26). -/
def isEmpty (s : State) : Bool := s.w == s.r

/-- `FULL` is `avail(w, r) = N` (10_state.md R26). -/
def isFull (s : State) : Bool := availCount s == capacity s.params

end Sys2Proof.Machine
end

