-- ==== Sys2Proof/Machine/Ring.lean ====
section
/-! DEFINITION. The ByteRing operations: the indivisible meanings of 41_ring.md, the micro-steps of
70_reset_and_hazards.md R210, and the three meanings that choose between them by ATOMIC_OPS (00_scope.md R8). -/

namespace Sys2Proof.Machine

/-- The first line of PUSH: a full ring drops its oldest byte (41_ring.md R100). -/
def dropOldestIfFull (s : State) : State := if isFull s then s.setR (nextIndex s.params s.r) else s

/-- PUSH as one transition (41_ring.md R100). -/
def pushAtomic (b : Byte) (s : State) : Host.Outcome State Fault Refusal :=
  orNoSuchSlot ((memWrite (dropOldestIfFull s) (slotOf s.params s.w) b).map fun t => t.setW (nextIndex s.params s.w))

/-- P3 of 70_reset_and_hazards.md R210, with the locals P1 and P2 read. -/
def pushRepair (wl rl : Nat) (s : State) : State :=
  if capacity s.params ≤ availOf s.params wl rl then
    s.setR ((wl + (indexModulus s.params - capacity s.params % indexModulus s.params) + 1) % indexModulus s.params)
  else s

/-- PUSH as P1 to P5, never interrupted (70_reset_and_hazards.md R210, 60_exceptions.md R189). -/
def pushSteps (b : Byte) (s : State) : Host.Outcome State Fault Refusal :=
  let wl := s.w
  let rl := s.r
  orNoSuchSlot ((memWrite (pushRepair wl rl s) (slotOf s.params wl) b).map fun t => t.setW (nextIndex s.params wl))

/-- POP as one transition (41_ring.md R102). -/
def popAtomic (s : State) : Host.Outcome State Fault Refusal :=
  if isEmpty s then .next (giveResult s (.pop (popResult true 0x00#8)))
  else
    orNoSuchSlot ((memRead s (slotOf s.params s.r)).map fun v =>
      giveResult (s.setR (nextIndex s.params s.r)) (.pop (popResult false v)))

/-- AVAIL as one transition (41_ring.md R104). -/
def availAtomic (s : State) : State := giveResult s (.avail (availCount s))

/-- The byte C4 reads, and the state after the read: the slot's byte, or any byte on a platform that reorders slot and
index accesses (70_reset_and_hazards.md R209; log 13). -/
def publishedRead (s : State) (a : Nat) : Option (Byte × State) :=
  if s.params.reordered then some (Config.draw8 s.draws, s.setDraws (s.draws + 1))
  else (memRead s a).map fun v => (v, s)

/-- The next micro-step of a foreground POP (C2 to C6) or AVAIL (A2, A3) (70_reset_and_hazards.md R210). -/
def microStep (m : MicroOp) (s : State) : Host.Outcome State Fault Refusal :=
  match m with
  | .popC2 rl => .next (s.setInFlight (some (.popC3 rl s.w)))
  | .popC3 rl wl =>
    if wl = rl then .next (giveResult (s.setInFlight none) (.pop (popResult true 0x00#8)))
    else .next (s.setInFlight (some (.popC4 rl)))
  | .popC4 rl =>
    orNoSuchSlot ((publishedRead s (slotOf s.params rl)).map fun (v, t) => t.setInFlight (some (.popC5 rl v)))
  | .popC5 rl v => .next ((s.setR (nextIndex s.params rl)).setInFlight (some (.popC6 v)))
  | .popC6 v => .next (giveResult (s.setInFlight none) (.pop (popResult false v)))
  | .availA2 wl => .next (s.setInFlight (some (.availA3 wl s.r)))
  | .availA3 wl rl => .next (giveResult (s.setInFlight none) (.avail (availOf s.params wl rl)))

/-- PUSH (41_ring.md R100; 70_reset_and_hazards.md R210 with ATOMIC_OPS = false). -/
def execPush (b : Byte) (s : State) : Host.Outcome State Fault Refusal :=
  if s.params.atomicOps then pushAtomic b s else pushSteps b s

/-- POP (41_ring.md R102); with ATOMIC_OPS = false it is issued by its first micro-step, C1 (70_reset_and_hazards.md R210;
log 14). -/
def execPop (s : State) : Host.Outcome State Fault Refusal :=
  if s.params.atomicOps then popAtomic s else .next (s.setInFlight (some (.popC2 s.r)))

/-- AVAIL (41_ring.md R104); with ATOMIC_OPS = false it is issued by its first micro-step, A1 (70_reset_and_hazards.md R210;
log 14). -/
def execAvail (s : State) : Host.Outcome State Fault Refusal :=
  if s.params.atomicOps then .next (availAtomic s) else .next (s.setInFlight (some (.availA2 s.w)))

end Sys2Proof.Machine
end

