-- ==== Sys2Proof/Machine/Dispatch.lean ====
section
/-! DEFINITION. One arm per operation of the opcode table. -/

namespace Sys2Proof.Machine

def exec (i : Instr) (s : State) : Host.Outcome State Fault Refusal :=
  match i with
  | .push data => Sys2Proof.Machine.execPush data s
  | .pop => Sys2Proof.Machine.execPop s
  | .avail => Sys2Proof.Machine.execAvail s
  | .setcfg en pol => Sys2Proof.Machine.execSetcfg en pol s
  | .loadpos pos sym => Sys2Proof.Machine.execLoadpos pos sym s
  | .showOut => Sys2Proof.Machine.execShowOut s
  | .shift data => Sys2Proof.Machine.execShift data s
  | .latch => Sys2Proof.Machine.execLatch s

end Sys2Proof.Machine
end

