-- ==== Sys2Proof/WellFormed.lean ====
section
/-! DEFINITION. Which terms of the syntax name an operation of the spec. The widths of the operand fields are in the
types; what is left is the reserved symbol codes and the operand ranges of the pseudo-operations. -/

namespace Sys2Proof

/-- A LOADPOS with a reserved symbol code is ill-formed (30_encoding.md R76). -/
def Instr.wellFormed : Instr → Bool
  | .loadpos _ sym => !Machine.reservedSymbol sym
  | .push _ | .pop | .avail | .setcfg _ _ | .showOut | .shift _ | .latch => true

/-- RENDER_TIME takes 0 to 99 in each operand, RENDER_DIGITS takes 0 to 9 (44_render.md R164, R165). -/
def Pseudo.wellFormed : Pseudo → Bool
  | .time hh mm ss => decide ((0 ≤ hh ∧ hh ≤ 99) ∧ (0 ≤ mm ∧ mm ≤ 99) ∧ (0 ≤ ss ∧ ss ≤ 99))
  | .digits d => d.toList.all fun v => decide (0 ≤ v ∧ v ≤ 9)
  | .text _ _ | .numeric _ | .decimal _ => true

end Sys2Proof
end

