-- ==== Sys2Proof/Decode.lean ====
section
/-! DEFINITION. The command word (30_encoding.md R70 to R74), decoding in the order of R81, and the encoder. -/

namespace Sys2Proof

/-- `OP = cmd[15:12]` (30_encoding.md R70). -/
def opField (cmd : Command) : BitVec 4 := cmd.extractLsb' 12 4

/-- `DATA = cmd[7:0]`, and `EN = cmd[7:0]` (30_encoding.md R72). -/
def dataField (cmd : Command) : Byte := cmd.extractLsb' 0 8

/-- `POL = cmd[8]` (30_encoding.md R72). -/
def polField (cmd : Command) : BitVec 1 := cmd.extractLsb' 8 1

/-- `POS = cmd[6:4]` (30_encoding.md R72). -/
def posField (cmd : Command) : BitVec 3 := cmd.extractLsb' 4 3

/-- `SYM = cmd[3:0]` (30_encoding.md R72). -/
def symField (cmd : Command) : BitVec 4 := cmd.extractLsb' 0 4

/-- One row of the opcode map of 30_encoding.md R71. -/
structure OpcodeRow where
  op : BitVec 4
  mask : Command
  bits : Command
  port : Port
  build : Command → Instr

/-- The opcode map of 30_encoding.md R71, its assigned rows in order. -/
def opcodeMap : List OpcodeRow :=
  [ ⟨0x1#4, 0xFF00#16, 0x1000#16, .producer, fun c => .push (dataField c)⟩,
    ⟨0x2#4, 0xFFFF#16, 0x2000#16, .foreground, fun _ => .pop⟩,
    ⟨0x3#4, 0xFFFF#16, 0x3000#16, .foreground, fun _ => .avail⟩,
    ⟨0x4#4, 0xFE00#16, 0x4000#16, .foreground, fun c => .setcfg (dataField c) (polField c)⟩,
    ⟨0x5#4, 0xFF80#16, 0x5000#16, .foreground, fun c => .loadpos (posField c) (symField c)⟩,
    ⟨0x6#4, 0xFFFF#16, 0x6000#16, .foreground, fun _ => .showOut⟩,
    ⟨0x7#4, 0xFF00#16, 0x7000#16, .foreground, fun c => .shift (dataField c)⟩,
    ⟨0x8#4, 0xFFFF#16, 0x8000#16, .foreground, fun _ => .latch⟩ ]

/-- The row of a word's opcode; none for a reserved opcode (30_encoding.md R74). -/
def rowOf (cmd : Command) : Option OpcodeRow := opcodeMap.find? fun row => row.op == opField cmd

/-- Decoding, total on every word and port, in the order of 30_encoding.md R81. -/
def decode (cmd : Command) (port : Port) : Except RefuseReason Instr :=
  match rowOf cmd with
  | none => .error .reservedOpcode
  | some row =>
    if cmd &&& row.mask ≠ row.bits then .error .reservedField
    else if port ≠ row.port then .error .wrongPort
    else if opField cmd = 0x5#4 ∧ Machine.reservedSymbol (symField cmd) = true then .error .reservedSymbol
    else .ok (row.build cmd)

/-- The command word of an operation (30_encoding.md R82). -/
def encode : Instr → Command
  | .push data => 0x1000#16 ||| data.setWidth 16
  | .pop => 0x2000#16
  | .avail => 0x3000#16
  | .setcfg en pol => 0x4000#16 ||| (pol.setWidth 16 <<< 8) ||| en.setWidth 16
  | .loadpos pos sym => 0x5000#16 ||| (pos.setWidth 16 <<< 4) ||| sym.setWidth 16
  | .showOut => 0x6000#16
  | .shift data => 0x7000#16 ||| data.setWidth 16
  | .latch => 0x8000#16

/-- The one port an operation is issued on (60_exceptions.md R190). -/
def portOf : Instr → Port
  | .push _ => .producer
  | .pop | .avail | .setcfg _ _ | .loadpos _ _ | .showOut | .shift _ | .latch => .foreground

/-- The port of a word's table row; the foreground port for a reserved opcode, which both ports refuse. -/
def tablePort (cmd : Command) : Port :=
  match rowOf cmd with
  | none => .foreground
  | some row => row.port

/-- The word of `nbits` table bits numbered as the table numbers them; the bits above are 0. -/
def tableWord (nbits w : Nat) : Command := BitVec.ofNat 16 (w % 2 ^ nbits)

/-- The instruction the decoder reads from a table row's word, on the row's port. A command is one 16-bit unit, so there
is no byte order (20_memory.md R52). DESIGN CHOICE, safe: log 24. -/
def decodeTableWord (nbits w : Nat) : Option Instr :=
  if 16 < nbits then none else (decode (tableWord nbits w) (tablePort (tableWord nbits w))).toOption

end Sys2Proof
end

