-- ==== Sys2Proof/Machine/Render.lean ====
section
/-! DEFINITION. The display command pseudo-operations: each expands to eight LOADPOS and one SHOW (44_render.md). -/

namespace Sys2Proof.Machine

/-- `CHARSYM(c)` (44_render.md R161). -/
def charSymbol (c : Byte) : Symbol :=
  if h : 0x30 ≤ c.toNat ∧ c.toNat ≤ 0x39 then .digit ⟨c.toNat - 0x30, by omega⟩
  else if c = 0x2E#8 then .dot
  else .blank

/-- The bytes of a text operand before its first 0x00 (44_render.md R160, 92_eei_decisions.md D24). -/
def textBody (s : List Byte) : List Byte := s.takeWhile fun c => c != 0x00#8

/-- The symbols of a text, a requested leading minus taken as the sign (44_render.md R160). -/
def textSymbols (s : List Byte) (sign : Bool) : List Symbol :=
  match sign, textBody s with
  | true, c :: rest => if c = 0x2D#8 then .sign :: rest.map charSymbol else charSymbol c :: rest.map charSymbol
  | _, body => body.map charSymbol

/-- Eight LOADPOS, positions 0 to 7 in order, and one SHOW; positions with no symbol are blank (44_render.md R160). -/
def loadAndShow (syms : List Symbol) : List Instr :=
  ((List.range 8).map fun p => .loadpos (BitVec.ofNat 3 p) (symbolCode (syms.getD p .blank))) ++ [.showOut]

/-- The symbol of a digit value that is in range. -/
def digitSymbol (v : Int) : Symbol := .digit ⟨v.toNat % 10, Nat.mod_lt _ (by decide)⟩

/-- `HH.MM.SS`, zero-padded (44_render.md R164). -/
def timeSymbols (hh mm ss : Int) : List Symbol :=
  [digitSymbol (hh / 10), digitSymbol (hh % 10), .dot, digitSymbol (mm / 10), digitSymbol (mm % 10), .dot,
    digitSymbol (ss / 10), digitSymbol (ss % 10)]

/-- The expansion of a pseudo-operation; an operand out of range is refused before the first LOADPOS
(44_render.md R160 to R165). -/
def expand : Pseudo → Except RefuseReason (List Instr)
  | .text s sign => .ok (loadAndShow (textSymbols s sign))
  | .numeric s => .ok (loadAndShow (textSymbols s true))
  | .decimal s => .ok (loadAndShow (textSymbols s true))
  | .time hh mm ss =>
    if (0 ≤ hh ∧ hh ≤ 99) ∧ (0 ≤ mm ∧ mm ≤ 99) ∧ (0 ≤ ss ∧ ss ≤ 99) then .ok (loadAndShow (timeSymbols hh mm ss))
    else .error .operandRange
  | .digits d =>
    if d.toList.all fun v => decide (0 ≤ v ∧ v ≤ 9) then .ok (loadAndShow (d.toList.map digitSymbol))
    else .error .operandRange

end Sys2Proof.Machine
end

