-- ==== Sys2Proof/Machine/Turns.lean ====
section
/-! DEFINITION. What one turn of an agent does: it issues its next command, or goes on with the operation it has under way. -/

namespace Sys2Proof.Machine

/-- A command on a port: the decoded operation runs, a refused one sets the refusal mark (30_encoding.md R81,
60_exceptions.md R181; log 9). -/
def runCommand (cmd : Command) (port : Port) (s : State) : Host.Outcome State Fault Refusal :=
  match decode cmd port with
  | .ok i => exec i s
  | .error _ => .next (refuse s)

/-- A turn of PRODUCER: the next word of its port; nothing arrives when there is none (60_exceptions.md R182, R185; log 7). -/
def producerTurn (s : State) : Host.Outcome State Fault Refusal :=
  match s.producerPort with
  | [] => .next s
  | cmd :: rest => runCommand cmd .producer (s.setProducerPort rest)

/-- A request of FOREGROUND: a command runs; a pseudo-operation is replaced by the words of its expansion, or refused
(44_render.md R166; log 15). -/
def runRequest (req : Request) (s : State) : Host.Outcome State Fault Refusal :=
  match req with
  | .command cmd => runCommand cmd .foreground s
  | .pseudo p =>
    match expand p with
    | .ok is => .next (s.setForegroundPort ((is.map fun i => .command (encode i)) ++ s.foregroundPort))
    | .error _ => .next (refuse s)

/-- A turn of FOREGROUND: the next micro-step of the operation under way, or else the next request of its port
(60_exceptions.md R185, R188; log 7). -/
def foregroundTurn (s : State) : Host.Outcome State Fault Refusal :=
  match s.inFlight with
  | some m => microStep m s
  | none =>
    match s.foregroundPort with
    | [] => .next s
    | req :: rest => runRequest req (s.setForegroundPort rest)

/-- One turn (20_memory.md R56, 60_exceptions.md R185; log 6, log 10). -/
def takeTurn (t : Turn) (s : State) : Host.Outcome State Fault Refusal :=
  match t with
  | .producer => producerTurn s
  | .foreground => foregroundTurn s
  | .restart => .next (restart s)

/-- The receive interrupt delivers a byte: the PUSH of that byte is PRODUCER's next command, and PRODUCER moves next
(60_exceptions.md R182, R185). -/
def receiveInterrupt (b : Byte) (s : State) : State :=
  (s.setProducerPort (encode (.push b) :: s.producerPort)).setTurns (.producer :: s.turns)

/-- A command word placed as the next thing its table row's agent does (log 6). -/
def placeCommand (cmd : Command) (s : State) : State :=
  match tablePort cmd with
  | .producer => (s.setProducerPort (cmd :: s.producerPort)).setTurns (.producer :: s.turns)
  | .foreground =>
    ((s.setForegroundPort (.command cmd :: s.foregroundPort)).setInFlight none).setTurns (.foreground :: s.turns)

/-- One transition of the block: nothing for a configuration the spec refuses; nothing to do when no agent moves; else the
next turn. -/
def advance (s : State) : Host.Outcome State Fault Refusal :=
  match configurationRefusal s.params with
  | some why => .refused why
  | none =>
    match s.turns with
    | [] => .next s
    | t :: rest => takeTurn t (s.setTurns rest)

end Sys2Proof.Machine
end

