-- ==== Sys2Proof/Machine/Step.lean ====
section
/-! DEFINITION. One step of the machine, and the placing of a command where the next step issues it. -/

namespace Sys2Proof.Machine

/-- One step: the next turn of the block's two agents (20_memory.md R55, R56; 70_reset_and_hazards.md R210). -/
def step (s : State) : Host.Outcome State Fault Refusal := advance s

/-- The state whose next step issues the command word `w` on the port of its table row (log 6). -/
def State.withFetchWord (s : State) (nbits w : Nat) : State := placeCommand (tableWord nbits w) s

end Sys2Proof.Machine
end

