-- ==== Sys2Proof/Machine/Assembler.lean ====
section
/-! DEFINITION. The assembly syntax of 30_encoding.md R82 and R83: one operation a line, read to a request of FOREGROUND's
form (a command word or a pseudo-operation). Lexical details R82 does not give are the model's: log 16. -/

namespace Sys2Proof.Machine

/-- The mnemonics of 30_encoding.md R82 and R83. -/
inductive Mnemonic
  | push
  | pop
  | avail
  | setcfg
  | loadpos
  | showOut
  | shift
  | latch
  | renderText
  | renderNumeric
  | renderDecimal
  | renderTime
  | renderDigits
deriving DecidableEq, Repr

/-- The symbol names of 30_encoding.md R82. -/
inductive SymbolName
  | dot
  | sign
  | blank
deriving DecidableEq, Repr

/-- An operand as written: a number, a symbol name or a string's bytes. -/
inductive Operand
  | num (v : Int)
  | name (n : SymbolName)
  | str (bytes : List Byte)
deriving DecidableEq, Repr

/-- A number in range for an unsigned field of `n` bits; none if it spells no command (30_encoding.md R82). -/
def fieldValue (n : Nat) (v : Int) : Option (BitVec n) :=
  if 0 ≤ v ∧ v < 2 ^ n then some (BitVec.ofNat n v.toNat) else none

/-- `sym` is 0 to 9, DOT, SIGN or BLANK (30_encoding.md R82). -/
def symbolOperand : Operand → Option Symbol
  | .num v => if h : 0 ≤ v ∧ v < 10 then some (.digit ⟨v.toNat, by omega⟩) else none
  | .name .dot => some .dot
  | .name .sign => some .sign
  | .name .blank => some .blank
  | .str _ => none

/-- The numbers of a list of operands; none if one is not a number. -/
def numbers : List Operand → Option (List Int)
  | [] => some []
  | .num v :: rest => (numbers rest).map fun vs => v :: vs
  | _ :: _ => none

/-- Eight numbers as RENDER_DIGITS takes them. -/
def eightNumbers : List Int → Option (Vector Int 8)
  | [a, b, c, d, e, f, g, h] => some #v[a, b, c, d, e, f, g, h]
  | _ => none

/-- The request a statement spells; none if it spells none (30_encoding.md R82, R83). -/
def assembleStatement (m : Mnemonic) (ops : List Operand) : Option Request :=
  match m, ops with
  | .push, [.num v] => (fieldValue 8 v).map fun d => .command (encode (.push d))
  | .pop, [] => some (.command (encode .pop))
  | .avail, [] => some (.command (encode .avail))
  | .setcfg, [.num en, .num pol] =>
    (fieldValue 8 en).bind fun e => (fieldValue 1 pol).map fun p => .command (encode (.setcfg e p))
  | .loadpos, [.num pos, sym] =>
    (fieldValue 3 pos).bind fun p => (symbolOperand sym).map fun y => .command (encode (.loadpos p (symbolCode y)))
  | .showOut, [] => some (.command (encode .showOut))
  | .shift, [.num v] => (fieldValue 8 v).map fun d => .command (encode (.shift d))
  | .latch, [] => some (.command (encode .latch))
  | .renderText, [.str s, .num sign] => (fieldValue 1 sign).map fun b => .pseudo (.text s (b == 1#1))
  | .renderNumeric, [.str s] => some (.pseudo (.numeric s))
  | .renderDecimal, [.str s] => some (.pseudo (.decimal s))
  | .renderTime, [.num hh, .num mm, .num ss] => some (.pseudo (.time hh mm ss))
  | .renderDigits, ds => ((numbers ds).bind eightNumbers).map fun v => .pseudo (.digits v)
  | _, _ => none

/-- The statement of an operation (30_encoding.md R82); none for a LOADPOS of a reserved symbol, which has no spelling. -/
def statementOf : Instr → Option (Mnemonic × List Operand)
  | .push d => some (.push, [.num d.toNat])
  | .pop => some (.pop, [])
  | .avail => some (.avail, [])
  | .setcfg en pol => some (.setcfg, [.num en.toNat, .num pol.toNat])
  | .loadpos pos sym =>
    (symbolOf sym).map fun
      | .digit d => (.loadpos, [.num pos.toNat, .num d.val])
      | .dot => (.loadpos, [.num pos.toNat, .name .dot])
      | .sign => (.loadpos, [.num pos.toNat, .name .sign])
      | .blank => (.loadpos, [.num pos.toNat, .name .blank])
  | .showOut => some (.showOut, [])
  | .shift d => some (.shift, [.num d.toNat])
  | .latch => some (.latch, [])

/-! The text of a line. -/

/-- A piece of a line: a word, a string's characters, or a comma. -/
inductive Token
  | word (cs : List Char)
  | str (cs : List Char)
  | comma
deriving DecidableEq, Repr

/-- Where the reader stands in a line: between pieces, inside a word or inside a string (characters read, last first). -/
inductive LexState
  | between
  | inWord (acc : List Char)
  | inString (acc : List Char)
deriving DecidableEq, Repr

/-- Spaces, tabs and carriage returns separate words (log 16). -/
def isBlankChar (c : Char) : Bool := c == ' ' || c == '\t' || c == '\r'

/-- The pieces of a line up to its comment, which `;` starts (30_encoding.md R82); none for an unfinished string or a quote
inside a word. -/
def lexLine : LexState → List Char → Option (List Token)
  | .between, [] => some []
  | .between, c :: cs =>
    if c = ';' then some []
    else if isBlankChar c then lexLine .between cs
    else if c = ',' then (lexLine .between cs).map fun ts => .comma :: ts
    else if c = '"' then lexLine (.inString []) cs
    else lexLine (.inWord [c]) cs
  | .inWord acc, [] => some [.word acc.reverse]
  | .inWord acc, c :: cs =>
    if c = ';' then some [.word acc.reverse]
    else if isBlankChar c then (lexLine .between cs).map fun ts => .word acc.reverse :: ts
    else if c = ',' then (lexLine .between cs).map fun ts => .word acc.reverse :: .comma :: ts
    else if c = '"' then none
    else lexLine (.inWord (c :: acc)) cs
  | .inString _, [] => none
  | .inString acc, c :: cs =>
    if c = '"' then (lexLine .between cs).map fun ts => .str acc.reverse :: ts
    else lexLine (.inString (c :: acc)) cs

/-- The value of a digit in a base of at most 16. -/
def digitValue (base : Nat) (c : Char) : Option Nat :=
  let v :=
    if '0' ≤ c ∧ c ≤ '9' then c.toNat - 48
    else if 'a' ≤ c ∧ c ≤ 'f' then c.toNat - 87
    else if 'A' ≤ c ∧ c ≤ 'F' then c.toNat - 55
    else 16
  if v < base then some v else none

/-- The number a run of digits writes, going on from a value already read. -/
def digitsValue (base : Nat) : Nat → List Char → Option Nat
  | acc, [] => some acc
  | acc, c :: cs => (digitValue base c).bind fun v => digitsValue base (acc * base + v) cs

/-- An unsigned number: decimal, or hexadecimal after 0x (30_encoding.md R82). -/
def naturalOf : List Char → Option Nat
  | [] => none
  | ['0', 'x'] => none
  | '0' :: 'x' :: cs => digitsValue 16 0 cs
  | cs => digitsValue 10 0 cs

/-- A number, with a minus sign where one is written (95_test_vectors.md D14 writes one; log 16). -/
def numberOf : List Char → Option Int
  | '-' :: cs => (naturalOf cs).map fun n => -(n : Int)
  | cs => (naturalOf cs).map fun n => (n : Int)

/-- The mnemonics as they are written (30_encoding.md R82, R83). -/
def mnemonicNames : List (List Char × Mnemonic) :=
  [ (['P', 'U', 'S', 'H'], .push), (['P', 'O', 'P'], .pop), (['A', 'V', 'A', 'I', 'L'], .avail),
    (['S', 'E', 'T', 'C', 'F', 'G'], .setcfg), (['L', 'O', 'A', 'D', 'P', 'O', 'S'], .loadpos),
    (['S', 'H', 'O', 'W'], .showOut), (['S', 'H', 'I', 'F', 'T'], .shift), (['L', 'A', 'T', 'C', 'H'], .latch),
    (['R', 'E', 'N', 'D', 'E', 'R', '_', 'T', 'E', 'X', 'T'], .renderText),
    (['R', 'E', 'N', 'D', 'E', 'R', '_', 'N', 'U', 'M', 'E', 'R', 'I', 'C'], .renderNumeric),
    (['R', 'E', 'N', 'D', 'E', 'R', '_', 'D', 'E', 'C', 'I', 'M', 'A', 'L'], .renderDecimal),
    (['R', 'E', 'N', 'D', 'E', 'R', '_', 'T', 'I', 'M', 'E'], .renderTime),
    (['R', 'E', 'N', 'D', 'E', 'R', '_', 'D', 'I', 'G', 'I', 'T', 'S'], .renderDigits) ]

/-- The symbol names as they are written (30_encoding.md R82). -/
def symbolNames : List (List Char × SymbolName) :=
  [ (['D', 'O', 'T'], .dot), (['S', 'I', 'G', 'N'], .sign), (['B', 'L', 'A', 'N', 'K'], .blank) ]

/-- The bytes of a string's characters; a character beyond ASCII stands for its UTF-8 bytes (log 16). -/
def stringBytes (cs : List Char) : List Byte := cs.flatMap fun c => (String.utf8EncodeChar c).map fun b => b.toBitVec

/-- One operand. -/
def operandOf : Token → Option Operand
  | .word cs =>
    match numberOf cs with
    | some v => some (.num v)
    | none => (symbolNames.lookup cs).map fun n => .name n
  | .str cs => some (.str (stringBytes cs))
  | .comma => none

/-- The operands of a statement, separated by commas. -/
def operandsOf : List Token → Option (List Operand)
  | [] => some []
  | [t] => (operandOf t).map fun o => [o]
  | t :: .comma :: u :: rest => (operandOf t).bind fun o => (operandsOf (u :: rest)).map fun os => o :: os
  | _ => none

/-- One line: none if it is rejected, no request if it holds no operation (30_encoding.md R82). -/
def assembleLine (line : List Char) : Option (Option Request) :=
  match lexLine .between line with
  | none => none
  | some [] => some none
  | some (.word m :: rest) =>
    (mnemonicNames.lookup m).bind fun k => (operandsOf rest).bind fun ops => (assembleStatement k ops).map some
  | some (_ :: _) => none

/-- A listing, line by line: the requests it spells, in order; none if a line is rejected. -/
def assembleListing : List (List Char) → Option (List Request)
  | [] => some []
  | line :: rest =>
    (assembleLine line).bind fun r => (assembleListing rest).map fun rs => r.toList ++ rs

/-! An operation written out in the syntax of 30_encoding.md R82: data in hexadecimal, the small fields as one decimal digit. -/

/-- The digits a number is written with. -/
def writtenDigits : List Char := ['0', '1', '2', '3', '4', '5', '6', '7', '8', '9', 'A', 'B', 'C', 'D', 'E', 'F']

/-- A number below 16 as one digit. -/
def writtenDigit (n : Nat) : Char := writtenDigits.getD n '0'

/-- A byte as `0x` and two digits. -/
def writtenByte (b : Byte) : List Char := ['0', 'x', writtenDigit (b.toNat / 16), writtenDigit (b.toNat % 16)]

/-- A symbol as R82 spells it. -/
def writtenSymbol : Symbol → List Char
  | .digit d => [writtenDigit d.val]
  | .dot => ['D', 'O', 'T']
  | .sign => ['S', 'I', 'G', 'N']
  | .blank => ['B', 'L', 'A', 'N', 'K']

/-- The start of a LOADPOS line, up to its symbol (30_encoding.md R82). -/
def writtenLoadpos (pos : Nat) : List Char :=
  ['L', 'O', 'A', 'D', 'P', 'O', 'S', ' ', writtenDigit pos, ',', ' ']

/-- The line of an operation (30_encoding.md R82); none for a LOADPOS of a reserved symbol, which has no spelling. -/
def writtenLine : Instr → Option (List Char)
  | .push d => some (['P', 'U', 'S', 'H', ' '] ++ writtenByte d)
  | .pop => some ['P', 'O', 'P']
  | .avail => some ['A', 'V', 'A', 'I', 'L']
  | .setcfg en pol =>
    some (['S', 'E', 'T', 'C', 'F', 'G', ' '] ++ writtenByte en ++ [',', ' ', writtenDigit pol.toNat])
  | .loadpos pos sym => (symbolOf sym).map fun y => writtenLoadpos pos.toNat ++ writtenSymbol y
  | .showOut => some ['S', 'H', 'O', 'W']
  | .shift d => some (['S', 'H', 'I', 'F', 'T', ' '] ++ writtenByte d)
  | .latch => some ['L', 'A', 'T', 'C', 'H']

end Sys2Proof.Machine
end

