-- ==== Sys2Proof/Safety.lean ====
section
/-! DEFINITION. The terms the claims use: the machine's invariant, the bytes the ring holds, sequences of operations, and
the parts of the state the two agents share and do not share. -/

namespace Sys2Proof.Machine

/-- A codeword that some symbol has (10_state.md R29). -/
def isCodeword (p : Params) (c : Codeword) : Prop := ∃ y : Symbol, codeword p y = c

/-- The locals of an operation under way are indices (70_reset_and_hazards.md R210). -/
def MicroOp.inRange (m : MicroOp) (modulus : Nat) : Prop :=
  match m with
  | .popC2 rl => rl < modulus
  | .popC3 rl wl => rl < modulus ∧ wl < modulus
  | .popC4 rl => rl < modulus
  | .popC5 rl _ => rl < modulus
  | .popC6 _ => True
  | .availA2 wl => wl < modulus
  | .availA3 wl rl => wl < modulus ∧ rl < modulus

/-- What every step keeps. -/
structure Invariant (s : State) : Prop where
  /-- A configuration the spec gives a meaning. -/
  configured : configurationRefusal s.params = none
  /-- `w` has `IDX_W` bits (10_state.md R22). -/
  writeIndex : s.w < indexModulus s.params
  /-- `r` has `IDX_W` bits (10_state.md R23). -/
  readIndex : s.r < indexModulus s.params
  /-- The ring storage keeps its canonical form. -/
  canonical : Memory.wf s.buf = true
  /-- The ring storage has the slots `0..N-1` only (20_memory.md R50). -/
  slots : ∀ c ∈ s.buf, c.1 < capacity s.params
  /-- The ring invariant, with ATOMIC_OPS = true (10_state.md R25). -/
  ringBound : s.params.atomicOps = true → availCount s ≤ capacity s.params
  /-- With ATOMIC_OPS = true no operation is under way between two steps (20_memory.md R55). -/
  indivisible : s.params.atomicOps = true → s.inFlight = none
  /-- The locals of an operation under way are indices. -/
  locals : ∀ m, s.inFlight = some m → m.inRange (indexModulus s.params)
  /-- Every DisplayCode register holds a symbol's codeword (10_state.md R29). -/
  displayCode : ∀ p : Fin 8, isCodeword s.params s.dcode[p]
  /-- The shift clock is deasserted between operations (10_state.md R32). -/
  clockReleased : s.sclk = false
  /-- The latch line is deasserted between operations (10_state.md R32). -/
  latchReleased : s.lat = false

/-- The index `k` places after the oldest byte's. -/
def indexAfter (s : State) (k : Nat) : Nat := (s.r + k) % indexModulus s.params

/-- The bytes the ring holds, oldest first (10_state.md R27). -/
def held (s : State) : List Byte :=
  (List.range (availCount s)).map fun k => Memory.read s.buf (slotOf s.params (indexAfter s k))

/-- A sequence of operations, one after another, up to the first that stops. -/
def execAll : List Instr → State → Host.Outcome State Fault Refusal
  | [], s => .next s
  | i :: is, s =>
    match exec i s with
    | .next t => execAll is t
    | .fault f => .fault f
    | .refused f => .refused f

/-- At most `k` micro-steps of the operation under way (70_reset_and_hazards.md R210). -/
def microSteps : Nat → State → Host.Outcome State Fault Refusal
  | 0, s => .next s
  | k + 1, s =>
    match s.inFlight with
    | none => .next s
    | some m =>
      match microStep m s with
      | .next t => microSteps k t
      | .fault f => .fault f
      | .refused f => .refused f

/-- One outcome after another. -/
def andThen (o : Host.Outcome State Fault Refusal) (f : State → Host.Outcome State Fault Refusal) :
    Host.Outcome State Fault Refusal :=
  match o with
  | .next s => f s
  | .fault e => .fault e
  | .refused e => .refused e

/-- The bytes a sequence of operations pushes, in order. -/
def pushedBytes (is : List Instr) : List Byte :=
  is.filterMap fun
    | .push b => some b
    | _ => none

/-- The bytes that POP results carry, in order; EMPTY carries none (30_encoding.md R78). -/
def takenBytes (rs : List Result) : List Byte :=
  rs.filterMap fun
    | .pop res => if res.getLsbD 8 then none else some (res.extractLsb' 0 8)
    | .avail _ => none

/-- How many PUSHes of a sequence find the ring full (00_scope.md section 6, overrun). -/
def overruns : List Instr → State → Nat
  | [], _ => 0
  | i :: is, s =>
    let here :=
      match i with
      | .push _ => if isFull s then 1 else 0
      | _ => 0
    match exec i s with
    | .next t => here + overruns is t
    | .fault _ => here
    | .refused _ => here

/-- The state both agents reach is the same (20_memory.md R63). -/
def SameRing (s t : State) : Prop := t.w = s.w ∧ t.r = s.r ∧ ∀ a, Memory.read t.buf a = Memory.read s.buf a

/-- The display state, which FOREGROUND alone reaches, is the same (20_memory.md R63). -/
def SameDisplay (s t : State) : Prop :=
  t.cfg = s.cfg ∧ t.dcode = s.dcode ∧ t.chain = s.chain ∧ t.latch = s.latch ∧ t.dl = s.dl ∧ t.sclk = s.sclk ∧ t.lat = s.lat

/-- The parameters, the refusal mark, the operation under way and the model's own fields but the results are the same. -/
def SameControl (s t : State) : Prop :=
  t.params = s.params ∧ t.refused = s.refused ∧ t.inFlight = s.inFlight ∧ t.producerPort = s.producerPort ∧
    t.foregroundPort = s.foregroundPort ∧ t.turns = s.turns ∧ t.draws = s.draws

/-- The operations that touch the display state only (20_memory.md R63). -/
def displayOperation : Instr → Bool
  | .push _ | .pop | .avail => false
  | .setcfg _ _ | .loadpos _ _ | .showOut | .shift _ | .latch => true

/-- PUSH, the one operation of the interrupt context (41_ring.md R101). -/
def isPush : Instr → Bool
  | .push _ => true
  | .pop | .avail | .setcfg _ _ | .loadpos _ _ | .showOut | .shift _ | .latch => false

/-- The twelve SHIFTs and the LATCH a SHOW makes (43_display_drive.md R140). -/
def showSequence (s : State) : List Instr := (showOperands s).map Instr.shift ++ [.latch]

/-- A safe state: the invariant holds and no command has been refused since reset (60_exceptions.md R181). -/
def Safe (s : State) : Prop := Invariant s ∧ s.refused = false

end Sys2Proof.Machine
end

