-- ==== Sys2Proof/Certificates/Slice0/Obligations.lean ====
section
/-! DEFINITION. The statements for the provers. Each docstring names the rules of spec/ it formalises; OBLIGATIONS.json
lists them. -/

open Sys2Proof Sys2Proof.Machine

/-! ## Encoding -/

/-- Decoding the word of a well-formed operation, on the operation's port, gives it back (30_encoding.md R71, R72, R82). -/
def Obligations.DecodeOfEncode : Prop :=
  ∀ i : Instr, i.wellFormed = true → decode (encode i) (portOf i) = .ok i

/-- A word that decodes is the word of the operation it decodes to, which is well-formed and on its own port
(30_encoding.md R71, R73, R76, R81). -/
def Obligations.EncodeOfDecode : Prop :=
  ∀ (cmd : Command) (port : Port) (i : Instr), decode cmd port = .ok i →
    encode i = cmd ∧ portOf i = port ∧ i.wellFormed = true

/-- Decoding works in the order of 30_encoding.md R81, with the must-be-zero bits, ports and fields of R71 and R72. -/
def Obligations.DecodeFollowsTheOrder : Prop :=
  ∀ (cmd : Command) (port : Port),
    let op := cmd.toNat / 4096
    let zeros : Command :=
      if op = 1 ∨ op = 7 then 0x0F00#16 else if op = 4 then 0x0E00#16 else if op = 5 then 0x0F80#16 else 0x0FFF#16
    let own : Port := if op = 1 then .producer else .foreground
    let sym := cmd.toNat % 16
    ((op = 0 ∨ 9 ≤ op) → decode cmd port = .error .reservedOpcode) ∧
    (1 ≤ op → op ≤ 8 → cmd &&& zeros ≠ 0#16 → decode cmd port = .error .reservedField) ∧
    (1 ≤ op → op ≤ 8 → cmd &&& zeros = 0#16 → port ≠ own → decode cmd port = .error .wrongPort) ∧
    (op = 5 → cmd &&& zeros = 0#16 → port = own → (sym = 12 ∨ sym = 13 ∨ sym = 14) →
      decode cmd port = .error .reservedSymbol) ∧
    (1 ≤ op → op ≤ 8 → cmd &&& zeros = 0#16 → port = own → ¬(op = 5 ∧ (sym = 12 ∨ sym = 13 ∨ sym = 14)) →
      decode cmd port = .ok
        (if op = 1 then .push (BitVec.ofNat 8 (cmd.toNat % 256))
        else if op = 2 then .pop
        else if op = 3 then .avail
        else if op = 4 then .setcfg (BitVec.ofNat 8 (cmd.toNat % 256)) (BitVec.ofNat 1 (cmd.toNat / 256 % 2))
        else if op = 5 then .loadpos (BitVec.ofNat 3 (cmd.toNat / 16 % 8)) (BitVec.ofNat 4 sym)
        else if op = 6 then .showOut
        else if op = 7 then .shift (BitVec.ofNat 8 (cmd.toNat % 256))
        else .latch))

/-- Words written out from 30_encoding.md R71 decode to the operations they stand for (95_test_vectors.md V21, V31 to V34). -/
def Obligations.WrittenWordsDecode : Prop :=
  decode 0b0001000001000001#16 .producer = .ok (.push 0x41#8) ∧
  decode 0b0010000000000000#16 .foreground = .ok .pop ∧
  decode 0b0100000111111111#16 .foreground = .ok (.setcfg 0xFF#8 1#1) ∧
  decode 0b0101000001111011#16 .foreground = .ok (.loadpos 7#3 0xB#4) ∧
  decode 0b0111000010000000#16 .foreground = .ok (.shift 0x80#8) ∧
  decode 0b1000000000000000#16 .foreground = .ok .latch ∧
  decode 0b1001000000000000#16 .foreground = .error .reservedOpcode ∧
  decode 0b0001111101000001#16 .foreground = .error .reservedField

/-- The assembly syntax spells every well-formed operation, as a statement and as a line of text; a spelling assembles to the
operation's word; a comment changes nothing; and an operand out of range for its field, or one that is no symbol where a
symbol stands, spells no command (30_encoding.md R82). What separates the words of a line, and how a number is written beyond
what R82 says, is the model's choice (log 16). -/
def Obligations.AssemblerSpellsEveryOperation : Prop :=
  (∀ i : Instr, i.wellFormed = true →
    (∃ m ops, statementOf i = some (m, ops) ∧ assembleStatement m ops = some (.command (encode i))) ∧
    (∃ line, writtenLine i = some line ∧ assembleLine line = some (some (.command (encode i))))) ∧
  (∀ (line comment : List Char) (r : Option Request), assembleLine line = some r →
    assembleLine (line ++ ';' :: comment) = some r) ∧
  (∀ v : Int, (v < 0 ∨ 255 < v) →
    assembleStatement .push [.num v] = none ∧ assembleStatement .shift [.num v] = none ∧
      ∀ pol : Int, assembleStatement .setcfg [.num v, .num pol] = none) ∧
  (∀ en pol : Int, (pol < 0 ∨ 1 < pol) → assembleStatement .setcfg [.num en, .num pol] = none) ∧
  (∀ (pos : Int) (y : Operand), (pos < 0 ∨ 7 < pos) → assembleStatement .loadpos [.num pos, y] = none) ∧
  (∀ (pos : Int) (y : Operand), (∀ v, y = .num v → v < 0 ∨ 9 < v) → (∀ n, y ≠ .name n) →
    assembleStatement .loadpos [.num pos, y] = none) ∧
  (∀ (pos : Fin 8) (word : List Char),
    (∀ c ∈ word, c ≠ ';' ∧ c ≠ ',' ∧ c ≠ '"' ∧ isBlankChar c = false) →
    (∀ v, numberOf word = some v → v < 0 ∨ 9 < v) →
    word ≠ ['D', 'O', 'T'] → word ≠ ['S', 'I', 'G', 'N'] → word ≠ ['B', 'L', 'A', 'N', 'K'] →
    assembleLine (writtenLoadpos pos.val ++ word) = none)

/-! ## The step, the ports and the refusal mark -/

/-- A turn of an agent issues the next command of its port: step is exec of the decoded operation at the state with the turn
and the command taken, or sets the refusal mark there if the command is refused. An operation under way does not delay the
interrupt context (30_encoding.md R81, 60_exceptions.md R181, R185). The ports and turns are the model's own form of the
command streams (log 6). -/
def Obligations.StepRunsTheIssuedCommand : Prop :=
  (∀ (s : State) (ts : List Turn) (cmd : Command) (rest : List Command),
    configurationRefusal s.params = none → s.turns = .producer :: ts → s.producerPort = cmd :: rest →
      (∀ i, decode cmd .producer = .ok i → step s = exec i { s with turns := ts, producerPort := rest }) ∧
      (∀ e, decode cmd .producer = .error e →
        step s = .next { s with turns := ts, producerPort := rest, refused := true })) ∧
  (∀ (s : State) (ts : List Turn) (cmd : Command) (rest : List Request),
    configurationRefusal s.params = none → s.turns = .foreground :: ts → s.inFlight = none →
      s.foregroundPort = .command cmd :: rest →
      (∀ i, decode cmd .foreground = .ok i → step s = exec i { s with turns := ts, foregroundPort := rest }) ∧
      (∀ e, decode cmd .foreground = .error e →
        step s = .next { s with turns := ts, foregroundPort := rest, refused := true })) ∧
  (∀ (s : State) (ts : List Turn) (m : MicroOp),
    configurationRefusal s.params = none → s.turns = .foreground :: ts → s.inFlight = some m →
      step s = microStep m { s with turns := ts })

/-- The word of an opcode-table row, placed where the next step issues it, is run by that step. The ports and turns it is
placed in are the model's own (log 6), and so is the port it is decoded on (log 24). -/
def Obligations.PlacedWordRunsNext : Prop :=
  ∀ (s : State) (nbits w : Nat) (i : Instr), configurationRefusal s.params = none → s.inFlight = none →
    decodeTableWord nbits w = some i → step (s.withFetchWord nbits w) = exec i s

/-- The receive interrupt's whole effect is the PUSH of its byte (60_exceptions.md R182, R187). -/
def Obligations.ReceiveInterruptIsOnePush : Prop :=
  ∀ (b : Byte) (s : State), configurationRefusal s.params = none →
    step (receiveInterrupt b s) = exec (.push b) s

/-- No operation traps, and every step of a configuration with a meaning completes (60_exceptions.md R180, R196,
70_reset_and_hazards.md R213). -/
def Obligations.EveryOperationCompletes : Prop :=
  (∀ (i : Instr) (s : State), ∃ t, exec i s = .next t) ∧
  (∀ (m : MicroOp) (s : State), ∃ t, microStep m s = .next t) ∧
  (∀ s : State, configurationRefusal s.params = none → ∃ t, step s = .next t)

/-- step refuses parameters outside their ranges, and then a platform with torn index accesses, each by its own name and in
every state, and nothing else (70_reset_and_hazards.md R208, 00_scope.md R6, R7, 92_eei_decisions.md D3). The spec says so of
torn accesses and of N; that the same is done for IDX_W below 16, that it is step that refuses, and which of the two names
comes first are the model's deductions (log 12). -/
def Obligations.IllegalConfigurationIsRefused : Prop :=
  ∀ s : State,
    ((s.params.logN < 1 ∨ s.params.idxW < s.params.logN + 1 ∨ s.params.idxW < 16) →
      step s = .refused .parametersOutOfRange) ∧
    (1 ≤ s.params.logN → s.params.logN + 1 ≤ s.params.idxW → 16 ≤ s.params.idxW → s.params.tornIndex = true →
      step s = .refused .tornIndexPlatform) ∧
    (1 ≤ s.params.logN → s.params.logN + 1 ≤ s.params.idxW → 16 ≤ s.params.idxW → s.params.tornIndex = false →
      ∃ t, step s = .next t)

/-- No step changes a parameter (70_reset_and_hazards.md R202). -/
def Obligations.ParametersNeverChange : Prop :=
  ∀ s t : State, step s = .next t → t.params = s.params

/-- A refused command or pseudo-operation sets the refusal mark and changes nothing else (60_exceptions.md R181). -/
def Obligations.RefusalSetsOnlyTheMark : Prop :=
  (∀ (cmd : Command) (port : Port) (e : RefuseReason) (s : State), decode cmd port = .error e →
    runCommand cmd port s = .next { s with refused := true }) ∧
  (∀ (p : Pseudo) (e : RefuseReason) (s : State), expand p = .error e →
    runRequest (.pseudo p) s = .next { s with refused := true })

/-- The refusal mark stays until a restart, a restart clears it, and only a refusal sets it (60_exceptions.md R181). -/
def Obligations.RefusalMarkLastsUntilReset : Prop :=
  ∀ s t : State, step s = .next t →
    (s.turns.head? = some .restart → t.refused = false) ∧
    (s.turns.head? ≠ some .restart → s.refused = true → t.refused = true) ∧
    (s.refused = false → t.refused = true →
      (∃ cmd rest e, s.turns.head? = some .producer ∧ s.producerPort = cmd :: rest ∧
        decode cmd .producer = .error e) ∨
      (∃ cmd rest e, s.turns.head? = some .foreground ∧ s.foregroundPort = .command cmd :: rest ∧
        decode cmd .foreground = .error e) ∨
      (∃ p rest e, s.turns.head? = some .foreground ∧ s.foregroundPort = .pseudo p :: rest ∧ expand p = .error e))

/-! ## Reset and the invariant -/

/-- What a reset leaves, for any parameters and any draws; that a restart is such a reset; and that the power-on state
State.reset is one, with the default parameters (70_reset_and_hazards.md R200). That a restart comes as a turn is the model's
own form (log 10). No clause names the values State.reset gives the draws, which are the model's choice (log 3, log 4). -/
def Obligations.ResetValues : Prop :=
  let isReset : State → Params → Draws → Prop := fun t p d =>
    t.params = p ∧ t.w = 0 ∧ t.r = 0 ∧ (∀ a, a < capacity p → Memory.read t.buf a = d.slot a) ∧
    configEn t.cfg = p.enableReset ∧ configPol t.cfg = p.polReset ∧ (∀ q : Fin 8, t.dcode[q] = 0x0000#16) ∧
    (∀ l : Fin 8, t.chain[l] = d.chain l ∧ t.latch[l] = d.latch l) ∧ t.dl = d.dl ∧ t.refused = false ∧
    isEmpty t = true ∧ isFull t = false
  (∀ (p : Params) (d : Draws), isReset (State.resetWith p d) p d) ∧
  (∀ s : State, configurationRefusal s.params = none → s.turns.head? = some .restart →
    ∃ (t : State) (d : Draws), step s = .next t ∧ isReset t s.params d) ∧
  ∃ d : Draws, isReset State.reset Params.shipped d

/-- The invariant holds after a reset with any legal parameters and any draws, so at State.reset, whose values for the draws
are the model's choice (log 1 to log 4); that the clock and latch lines are released at reset is deduced (log 5). -/
def Obligations.ResetHasTheInvariant : Prop :=
  (∀ (p : Params) (d : Draws), configurationRefusal p = none → Invariant (State.resetWith p d)) ∧ Invariant State.reset

/-- Every step keeps the invariant: the ring's count stays within the capacity and its indices within their width, the ring
storage keeps its canonical form, DisplayCode holds codewords only, and the clock and latch lines are released
(10_state.md R22, R23, R25, R29, R32, 20_memory.md R50, R55). The canonical form and the field of the operation under way are
the model's own (log 3, log 14). -/
def Obligations.StepKeepsTheInvariant : Prop :=
  ∀ s t : State, Invariant s → step s = .next t → Invariant t

/-! ## The ring, one transition an operation -/

/-- PUSH with ATOMIC_OPS = true: the byte goes to slot w mod N, w advances, and r advances exactly when the ring was full;
nothing else changes (41_ring.md R100). -/
def Obligations.PushStoresTheByte : Prop :=
  ∀ (b : Byte) (s : State), s.params.atomicOps = true →
    ∃ t, exec (.push b) s = .next t ∧
      t.w = (s.w + 1) % 2 ^ s.params.idxW ∧
      t.r = (if availCount s = 2 ^ s.params.logN then (s.r + 1) % 2 ^ s.params.idxW else s.r) ∧
      (∀ a, Memory.read t.buf a = if a = s.w % 2 ^ s.params.logN then b else Memory.read s.buf a) ∧
      t.results = s.results ∧ SameDisplay s t ∧ SameControl s t

/-- After an indivisible PUSH the ring is not empty, and it is full exactly when it held N - 1 or N bytes
(41_ring.md R100, status written). -/
def Obligations.PushSetsTheStatus : Prop :=
  ∀ (b : Byte) (s : State), Invariant s → s.params.atomicOps = true →
    ∃ t, exec (.push b) s = .next t ∧ isEmpty t = false ∧
      (isFull t = true ↔ availCount s = capacity s.params - 1 ∨ availCount s = capacity s.params)

/-- POP of an empty ring returns EMPTY with byte 0x00 and changes no state of the block (41_ring.md R102, 30_encoding.md
R78). The result list is the model's own (log 8). -/
def Obligations.PopOfAnEmptyRing : Prop :=
  ∀ s : State, s.params.atomicOps = true → s.w = s.r →
    exec .pop s = .next { s with results := s.results ++ [.pop 0x100#9] }

/-- POP of a ring that is not empty returns the byte of slot r mod N and advances r; nothing else changes
(41_ring.md R102, 30_encoding.md R78). The result list is the model's own (log 8). -/
def Obligations.PopTakesTheOldestByte : Prop :=
  ∀ s : State, s.params.atomicOps = true → s.w ≠ s.r →
    ∃ (t : State) (res : BitVec 9), exec .pop s = .next t ∧ t.results = s.results ++ [.pop res] ∧
      res.toNat = (Memory.read s.buf (s.r % 2 ^ s.params.logN)).toNat ∧
      t.r = (s.r + 1) % 2 ^ s.params.idxW ∧ t.w = s.w ∧
      (∀ a, Memory.read t.buf a = Memory.read s.buf a) ∧ SameDisplay s t ∧ SameControl s t

/-- AVAIL returns (w - r) mod 2^IDX_W and changes no state of the block (41_ring.md R104). The result list
is the model's own (log 8). -/
def Obligations.AvailReturnsTheCount : Prop :=
  ∀ s : State, s.params.atomicOps = true →
    ∃ (t : State) (c : Nat), exec .avail s = .next t ∧ t.results = s.results ++ [.avail c] ∧
      (c : Int) = ((s.w : Int) - (s.r : Int)) % ((2 ^ s.params.idxW : Nat) : Int) ∧
      SameRing s t ∧ SameDisplay s t ∧ SameControl s t

/-- The count law: PUSH raises the count by one up to N, or at N advances both indices and keeps it; POP lowers it by one or
leaves it at 0; no other operation writes an index; and the bound is kept (41_ring.md R105). -/
def Obligations.EveryOperationKeepsTheBound : Prop :=
  ∀ s : State, Invariant s → s.params.atomicOps = true →
    (∀ b, ∃ t, exec (.push b) s = .next t ∧
      (availCount s < capacity s.params → availCount t = availCount s + 1) ∧
      (availCount s = capacity s.params →
        t.w = (s.w + 1) % indexModulus s.params ∧ t.r = (s.r + 1) % indexModulus s.params ∧
          availCount t = capacity s.params)) ∧
    (∃ t, exec .pop s = .next t ∧ availCount t = availCount s - 1) ∧
    (∀ i, isPush i = false → i ≠ .pop → ∃ t, exec i s = .next t ∧ t.w = s.w ∧ t.r = s.r) ∧
    (∀ i t, exec i s = .next t → availCount t ≤ capacity s.params)

/-- PUSH on the queue the ring holds: the byte joins at the end, and a full ring drops its oldest byte first
(41_ring.md R100, 10_state.md R27). -/
def Obligations.PushAddsToTheQueue : Prop :=
  ∀ (b : Byte) (s : State), Invariant s → s.params.atomicOps = true →
    ∃ t, exec (.push b) s = .next t ∧
      held t = (if (held s).length = capacity s.params then (held s).tail else held s) ++ [b]

/-- POP on the queue the ring holds: it returns the oldest byte and leaves the rest, or returns EMPTY; after a byte is taken
the ring is not full, and it is empty exactly when it held one byte (41_ring.md R102, status written; 10_state.md R26, R27).
The result list is the model's own (log 8). -/
def Obligations.PopTakesFromTheQueue : Prop :=
  ∀ s : State, Invariant s → s.params.atomicOps = true →
    ∃ t, exec .pop s = .next t ∧
      match held s with
      | [] => t.results = s.results ++ [.pop (popResult true 0x00#8)] ∧ held t = [] ∧ isEmpty t = true ∧ isFull t = false
      | b :: rest => t.results = s.results ++ [.pop (popResult false b)] ∧ held t = rest ∧ isFull t = false ∧
        (isEmpty t = true ↔ availCount s = 1)

/-- Overrun: after PUSHes of the bytes B onto a ring that holds H, the ring holds the last min(h + k, N) bytes of H ++ B,
and nothing tells of the loss (41_ring.md R108). -/
def Obligations.OverrunKeepsTheNewestBytes : Prop :=
  ∀ (bs : List Byte) (s : State), Invariant s → s.params.atomicOps = true →
    ∃ t, execAll (bs.map Instr.push) s = .next t ∧
      held t = (held s ++ bs).drop ((held s).length + bs.length - capacity s.params) ∧
      (held t).length = min ((held s).length + bs.length) (capacity s.params) ∧
      t.results = s.results ∧ SameDisplay s t ∧ SameControl s t

/-- FIFO order: over any sequence of operations, the bytes the POPs return and then the bytes still held are a subsequence of
the bytes held at the start and then the bytes pushed; exactly as many are missing as PUSHes found the ring full, so without
an overrun the two are equal (41_ring.md R107). The result list is the model's own (log 8). -/
def Obligations.BytesLeaveInTheOrderTheyCame : Prop :=
  ∀ (is : List Instr) (s : State), Invariant s → s.params.atomicOps = true →
    ∃ (t : State) (new : List Result), execAll is s = .next t ∧ t.results = s.results ++ new ∧
      (takenBytes new ++ held t).Sublist (held s ++ pushedBytes is) ∧
      (takenBytes new ++ held t).length + overruns is s = (held s ++ pushedBytes is).length ∧
      (overruns is s = 0 → takenBytes new ++ held t = held s ++ pushedBytes is)

/-- Ring sizing: from an empty ring, a sequence with at most N PUSHes loses no byte, and N + 1 PUSHes with no POP between
them lose one (70_reset_and_hazards.md R203). -/
def Obligations.CapacityBoundsTheLoss : Prop :=
  ∀ s : State, Invariant s → s.params.atomicOps = true → s.w = s.r →
    (∀ is : List Instr, (pushedBytes is).length ≤ capacity s.params → overruns is s = 0) ∧
    (∀ bs : List Byte, capacity s.params < bs.length →
      overruns (bs.map Instr.push) s = bs.length - capacity s.params)

/-- The drawn reset contents of the ring are never returned: two resets that differ in the slot draws alone give the same
results and the same display after any sequence of operations (10_state.md R24, R33). The result list is the model's own
(log 8). -/
def Obligations.SlotDrawsAreNeverReturned : Prop :=
  ∀ (p : Params) (d e : Draws) (is : List Instr), configurationRefusal p = none → p.atomicOps = true →
    d.chain = e.chain → d.latch = e.latch → d.dl = e.dl →
    ∃ t u : State, execAll is (State.resetWith p d) = .next t ∧ execAll is (State.resetWith p e) = .next u ∧
      t.results = u.results ∧ t.w = u.w ∧ t.r = u.r ∧ held t = held u ∧ SameDisplay t u ∧ t.refused = u.refused

/-- PUSH is the only operation the producer port accepts, and in both settings of ATOMIC_OPS it leaves all but w, r and buf
unchanged (41_ring.md R101). -/
def Obligations.InterruptContextOnlyPushes : Prop :=
  (∀ (cmd : Command) (i : Instr), decode cmd .producer = .ok i → ∃ b, i = .push b) ∧
  (∀ (b : Byte) (s : State), ∃ t, exec (.push b) s = .next t ∧
    t.results = s.results ∧ SameDisplay s t ∧ SameControl s t)

/-! ## The ring, by micro-steps -/

/-- PUSH with ATOMIC_OPS = false, P1 to P5: a count of N or more puts r at w - N + 1, then the byte is stored and w advances
(70_reset_and_hazards.md R210). -/
def Obligations.PushByMicroSteps : Prop :=
  ∀ (b : Byte) (s : State), configurationRefusal s.params = none → s.params.atomicOps = false →
    ∃ t, exec (.push b) s = .next t ∧
      t.w = (s.w + 1) % 2 ^ s.params.idxW ∧
      (2 ^ s.params.logN ≤ availCount s →
        (t.r : Int) = ((s.w : Int) - (2 ^ s.params.logN : Nat) + 1) % ((2 ^ s.params.idxW : Nat) : Int)) ∧
      (availCount s < 2 ^ s.params.logN → t.r = s.r) ∧
      (∀ a, Memory.read t.buf a = if a = s.w % 2 ^ s.params.logN then b else Memory.read s.buf a) ∧
      t.results = s.results ∧ SameDisplay s t ∧ SameControl s t

/-- The micro-steps C1 to C6 and A1 to A3, one by one; the byte C4 reads is any byte on a reordering platform
(70_reset_and_hazards.md R210, R209). That an operation is issued by its first micro-step is the model's reading (log 14), and
so are the race taken as a free byte (log 13), numbered by the counter of the draws (log 11), and the result list (log 8). -/
def Obligations.MicroStepsFollowTheListing : Prop :=
  ∀ s : State,
    (s.params.atomicOps = false →
      exec .pop s = .next { s with inFlight := some (.popC2 s.r) } ∧
      exec .avail s = .next { s with inFlight := some (.availA2 s.w) }) ∧
    (∀ rl, microStep (.popC2 rl) s = .next { s with inFlight := some (.popC3 rl s.w) }) ∧
    (∀ rl, microStep (.popC3 rl rl) s =
      .next { s with inFlight := none, results := s.results ++ [.pop 0x100#9] }) ∧
    (∀ rl wl, wl ≠ rl → microStep (.popC3 rl wl) s = .next { s with inFlight := some (.popC4 rl) }) ∧
    (∀ rl, s.params.reordered = false → microStep (.popC4 rl) s =
      .next { s with inFlight := some (.popC5 rl (Memory.read s.buf (rl % 2 ^ s.params.logN))) }) ∧
    (∀ rl, s.params.reordered = true → microStep (.popC4 rl) s =
      .next { s with inFlight := some (.popC5 rl (Config.draw8 s.draws)), draws := s.draws + 1 }) ∧
    (∀ rl v, microStep (.popC5 rl v) s =
      .next { s with r := (rl + 1) % 2 ^ s.params.idxW, inFlight := some (.popC6 v) }) ∧
    (∀ v, microStep (.popC6 v) s =
      .next { s with inFlight := none, results := s.results ++ [.pop (v.setWidth 9)] }) ∧
    (∀ wl, microStep (.availA2 wl) s = .next { s with inFlight := some (.availA3 wl s.r) }) ∧
    (∀ wl rl, microStep (.availA3 wl rl) s =
      .next { s with inFlight := none, results := s.results ++ [.avail (availOf s.params wl rl)] })

/-- When no PUSH falls inside, the micro-step sequences give the result and state of the indivisible operations
(70_reset_and_hazards.md R210). -/
def Obligations.UninterruptedMicroStepsAreAtomic : Prop :=
  ∀ s : State, Invariant s → s.params.atomicOps = false → s.params.reordered = false → s.inFlight = none →
    availCount s ≤ capacity s.params →
    andThen (exec .pop s) (microSteps 5) = popAtomic s ∧
    andThen (exec .avail s) (microSteps 2) = .next (availAtomic s) ∧
    ∀ b, exec (.push b) s = pushAtomic b s

/-- Race 1: a PUSH on a full ring inside a POP. Before C4 the POP returns the pushed byte, out of order, the oldest byte is
lost and the pushed byte is held still; after C4 the result is that of POP and then PUSH (70_reset_and_hazards.md R211). The
result list and the first micro-step of exec are the model's own (log 8, log 14). -/
def Obligations.RaceReturnsTheNewestByte : Prop :=
  ∀ (b : Byte) (s : State), Invariant s → s.params.atomicOps = false → s.params.reordered = false →
    s.inFlight = none → availCount s = capacity s.params →
    (∀ k, k ≤ 2 → ∃ t,
      andThen (andThen (andThen (exec .pop s) (microSteps k)) (exec (.push b))) (microSteps 5) = .next t ∧
      t.results = s.results ++ [.pop (popResult false b)] ∧ t.inFlight = none ∧
      t.r = (s.r + 1) % indexModulus s.params ∧ t.w = (s.r + capacity s.params + 1) % indexModulus s.params ∧
      held t = (held s).tail ++ [b]) ∧
    (∀ k, 3 ≤ k → k ≤ 5 →
      andThen (andThen (andThen (exec .pop s) (microSteps k)) (exec (.push b))) (microSteps 5) =
        andThen (popAtomic s) (pushSteps b))

/-- Inside a POP of a ring that is not full, every placement of one PUSH gives the outcome of one of the two indivisible
orders (70_reset_and_hazards.md R211). That exec makes the first micro-step is the model's reading (log 14). -/
def Obligations.RoomyRingRacesAreAtomic : Prop :=
  ∀ (b : Byte) (k : Nat) (s : State), Invariant s → s.params.atomicOps = false → s.params.reordered = false →
    s.inFlight = none → availCount s < capacity s.params →
    let raced := andThen (andThen (andThen (exec .pop s) (microSteps k)) (exec (.push b))) (microSteps 5)
    raced = andThen (popAtomic s) (pushAtomic b) ∨ raced = andThen (pushAtomic b s) popAtomic

/-- Race 2: k >= 2 PUSHes on a full ring inside a POP, before C5, leave a count of N + k - 1, which an AVAIL returns, and the
next PUSH puts the count back at N; and an AVAIL with one PUSH on a full ring inside returns N - 1 (70_reset_and_hazards.md
R212). The count has IDX_W bits, so N + k is taken below 2^IDX_W. The result list and the first micro-step of exec are the
model's own (log 8, log 14). -/
def Obligations.RaceMovesTheReadIndexBack : Prop :=
  ∀ s : State, Invariant s → s.params.atomicOps = false → s.params.reordered = false → s.inFlight = none →
    availCount s = capacity s.params →
    (∀ (bs : List Byte) (j : Nat), 2 ≤ bs.length → capacity s.params + bs.length < indexModulus s.params → j ≤ 3 →
      ∃ t, andThen (andThen (andThen (exec .pop s) (microSteps j)) (execAll (bs.map Instr.push))) (microSteps 5) =
          .next t ∧
        t.inFlight = none ∧ t.r = (s.r + 1) % indexModulus s.params ∧
        availCount t = capacity s.params + bs.length - 1 ∧
        (∃ u, andThen (exec .avail t) (microSteps 2) = .next u ∧
          u.results = t.results ++ [.avail (capacity s.params + bs.length - 1)]) ∧
        (∀ b, ∃ u, exec (.push b) t = .next u ∧ availCount u = capacity s.params)) ∧
    (∀ b, ∃ t, andThen (andThen (exec .avail s) (exec (.push b))) (microSteps 2) = .next t ∧
      t.results = s.results ++ [.avail (capacity s.params - 1)])

/-! ## The encoder -/

/-- SETCFG writes both fields of CFG as given and nothing else (42_display_encode.md R122). -/
def Obligations.SetcfgWritesTheConfiguration : Prop :=
  ∀ (en : Byte) (pol : BitVec 1) (s : State), ∃ t, exec (.setcfg en pol) s = .next t ∧
    configEn t.cfg = en ∧ configPol t.cfg = pol ∧
    SameRing s t ∧ t.dcode = s.dcode ∧ t.chain = s.chain ∧ t.latch = s.latch ∧ t.dl = s.dl ∧ t.sclk = s.sclk ∧
    t.lat = s.lat ∧ t.results = s.results ∧ SameControl s t

/-- LOADPOS of a symbol code that is not reserved loads the symbol's codeword into its position and changes nothing else
(42_display_encode.md R120, R123, 30_encoding.md R75). -/
def Obligations.LoadposLoadsTheCodeword : Prop :=
  ∀ (pos : BitVec 3) (sym : BitVec 4) (s : State), sym ≠ 0xC#4 → sym ≠ 0xD#4 → sym ≠ 0xE#4 →
    ∃ t, exec (.loadpos pos sym) s = .next t ∧
      (∀ p : Fin 8, t.dcode[p] =
        if p.val = pos.toNat then
          (if sym.toNat = 0 then 0x800#16
          else if sym.toNat ≤ 9 then BitVec.ofNat 16 (2 ^ (sym.toNat - 1))
          else if sym.toNat = 10 then BitVec.ofNat 16 (2 ^ leftDotBit s.params)
          else if sym.toNat = 11 then 0x600#16
          else 0x000#16)
        else s.dcode[p]) ∧
      SameRing s t ∧ t.cfg = s.cfg ∧ t.chain = s.chain ∧ t.latch = s.latch ∧ t.dl = s.dl ∧ t.sclk = s.sclk ∧
      t.lat = s.lat ∧ t.results = s.results ∧ SameControl s t

/-- LOADPOS of a reserved symbol code is refused: the mark is set and nothing else changes (42_display_encode.md R123,
30_encoding.md R76, 60_exceptions.md R181). -/
def Obligations.LoadposRefusesReservedSymbols : Prop :=
  ∀ (pos : BitVec 3) (s : State),
    exec (.loadpos pos 0xC#4) s = .next { s with refused := true } ∧
    exec (.loadpos pos 0xD#4) s = .next { s with refused := true } ∧
    exec (.loadpos pos 0xE#4) s = .next { s with refused := true }

/-- The codeword table: its values, that a digit or dot sets one bit, SIGN two and BLANK none, that no two symbols share a
codeword, and that only SIGN sets the right-dot bit (42_display_encode.md R120, R121, 00_scope.md R9). -/
def Obligations.CodewordTable : Prop :=
  ∀ p : Params,
    (leftDotBit p = 9 ∨ leftDotBit p = 10) ∧ rightDotBit p = 19 - leftDotBit p ∧
    (∀ d : Fin 10, codeword p (.digit d) = BitVec.ofNat 16 (2 ^ (if d.val = 0 then 11 else d.val - 1))) ∧
    codeword p .dot = BitVec.ofNat 16 (2 ^ leftDotBit p) ∧
    codeword p .sign = BitVec.ofNat 16 (2 ^ leftDotBit p + 2 ^ rightDotBit p) ∧
    codeword p .sign = 0x600#16 ∧ codeword p .blank = 0x000#16 ∧
    (∀ y z : Symbol, codeword p y = codeword p z → y = z) ∧
    (∀ (y : Symbol) (j : Nat), 12 ≤ j → (codeword p y).getLsbD j = false) ∧
    (∀ y : Symbol, (codeword p y).getLsbD (rightDotBit p) = true → y = .sign)

/-- The polarity law: active-low is active-high with bits 11:0 inverted and bits 15:12 zero in both, and the blank pattern is
0x000 or 0xFFF (42_display_encode.md R125). -/
def Obligations.PolarityInvertsTheLowTwelveBits : Prop :=
  ∀ (s : State) (en : Byte) (p : Fin 8), Invariant s →
    let high := finalCode { s with cfg := configWord en 0#1 } p
    let low := finalCode { s with cfg := configWord en 1#1 } p
    low = high ^^^ 0x0FFF#16 ∧ high.toNat < 4096 ∧ low.toNat < 4096 ∧
    (s.dcode[p] = codeword s.params .blank → high = 0x0000#16 ∧ low = 0x0FFF#16)

/-- The enable-mask law: a disabled position is the blank of the active polarity whatever it holds; an enabled one is the
loaded symbol's codeword under the active polarity (42_display_encode.md R126). -/
def Obligations.DisabledPositionsAreBlank : Prop :=
  ∀ (s : State) (p : Fin 8),
    (s.cfg.getLsbD p.val = false →
      finalCode s p = if s.cfg.getLsbD 8 then 0x0FFF#16 else 0x0000#16) ∧
    (s.cfg.getLsbD p.val = true → ∀ y : Symbol, s.dcode[p] = codeword s.params y →
      finalCode s p = if s.cfg.getLsbD 8 then codeword s.params y ^^^ 0x0FFF#16 else codeword s.params y)

/-! ## The driver -/

/-- SHIFT drives the lines with its operand and shifts its line's bit into every chain, the bit of stage 11 being lost; the
clock ends released and nothing else changes (43_display_drive.md R142). -/
def Obligations.ShiftMovesEveryChain : Prop :=
  ∀ (d : Byte) (s : State), ∃ t, exec (.shift d) s = .next t ∧ t.dl = d ∧
    (∀ l : Fin 8, t.chain[l].toNat = (2 * s.chain[l].toNat + (d.getLsbD l.val).toNat) % 4096) ∧
    t.sclk = false ∧ SameRing s t ∧ t.cfg = s.cfg ∧ t.dcode = s.dcode ∧ t.latch = s.latch ∧ t.lat = s.lat ∧
    t.results = s.results ∧ SameControl s t

/-- LATCH copies all eight chains to the outputs in one step; the latch line ends released and nothing else changes
(43_display_drive.md R143). -/
def Obligations.LatchCopiesEveryChain : Prop :=
  ∀ s : State, ∃ t, exec .latch s = .next t ∧ (∀ l : Fin 8, t.latch[l] = s.chain[l]) ∧
    t.lat = false ∧ SameRing s t ∧ t.cfg = s.cfg ∧ t.dcode = s.dcode ∧ t.chain = s.chain ∧ t.dl = s.dl ∧
    t.sclk = s.sclk ∧ t.results = s.results ∧ SameControl s t

/-- SHOW presents the final codeword of position p on line 7 - p, whatever the chains held, and leaves the last operand on
the lines; DCODE, CFG and the ring are unchanged (43_display_drive.md R144, R140). -/
def Obligations.ShowPresentsTheFinalCodes : Prop :=
  ∀ s : State, ∃ t, exec .showOut s = .next t ∧
    (∀ (p l : Fin 8), l.val = 7 - p.val →
      t.latch[l] = (finalCode s p).setWidth 12 ∧ t.chain[l] = (finalCode s p).setWidth 12 ∧
        t.dl.getLsbD l.val = (finalCode s p).getLsbD 0) ∧
    t.sclk = false ∧ t.lat = false ∧ SameRing s t ∧ t.cfg = s.cfg ∧ t.dcode = s.dcode ∧ t.results = s.results ∧
    SameControl s t

/-- SHOW is twelve SHIFTs and one LATCH, and the operand sent n-th carries bit 11 - n of every line's codeword
(43_display_drive.md R140, R141). -/
def Obligations.ShowIsTwelveShiftsAndOneLatch : Prop :=
  ∀ s : State, ∃ ds : List Byte, ds.length = 12 ∧
    exec .showOut s = execAll (ds.map Instr.shift ++ [.latch]) s ∧
    ∀ (n : Nat) (d : Byte) (p l : Fin 8), ds[n]? = some d → l.val = 7 - p.val →
      d.getLsbD l.val = (finalCode s p).getLsbD (11 - n)

/-- After twelve SHIFTs a chain holds its line's twelve bits, the first sent at stage 11, whatever it held before
(43_display_drive.md R142). -/
def Obligations.TwelveShiftsReplaceTheChains : Prop :=
  ∀ (ds : List Byte) (s : State), ds.length = 12 →
    ∃ t, execAll (ds.map Instr.shift) s = .next t ∧ t.latch = s.latch ∧
      ∀ (n : Nat) (d : Byte) (l : Fin 8), ds[n]? = some d → t.chain[l].getLsbD (11 - n) = d.getLsbD l.val

/-- A LATCH after k < 12 SHIFTs mixes the old pattern, in the high bits, with the new bits (43_display_drive.md R146). -/
def Obligations.PartialLatchMixesOldAndNew : Prop :=
  ∀ (ds : List Byte) (s : State), ds.length < 12 →
    ∃ t, execAll (ds.map Instr.shift ++ [.latch]) s = .next t ∧
      ∀ l : Fin 8, t.latch[l].toNat =
        (s.chain[l].toNat * 2 ^ ds.length + ds.foldl (fun n d => 2 * n + (d.getLsbD l.val).toNat) 0) % 4096

/-- The outputs change only at LATCH, which SHOW ends with; SETCFG, LOADPOS and SHIFT have no visible effect
(70_reset_and_hazards.md R205). A restart, which redraws them, is no operation. -/
def Obligations.OutputsChangeOnlyAtLatch : Prop :=
  (∀ (i : Instr) (s : State), i ≠ .latch → i ≠ .showOut → ∃ t, exec i s = .next t ∧ t.latch = s.latch) ∧
  (∀ s t : State, step s = .next t → t.latch ≠ s.latch →
    s.turns.head? = some .restart ∨
    ∃ (cmd : Command) (rest : List Request), s.turns.head? = some .foreground ∧ s.inFlight = none ∧
      s.foregroundPort = .command cmd :: rest ∧
      (decode cmd .foreground = .ok .latch ∨ decode cmd .foreground = .ok .showOut))

/-- A hand-made sequence of SHIFTs and a LATCH sends its operands as given: its outcome does not depend on the mask, the
polarity or DisplayCode (70_reset_and_hazards.md R207). -/
def Obligations.HandMadeShiftsBypassTheMask : Prop :=
  ∀ (ds : List Byte) (s : State) (cfg : BitVec 9) (dcode : Vector Codeword 8),
    ∃ t u, execAll (ds.map Instr.shift ++ [.latch]) s = .next t ∧
      execAll (ds.map Instr.shift ++ [.latch]) { s with cfg := cfg, dcode := dcode } = .next u ∧
      u.latch = t.latch ∧ u.chain = t.chain ∧ u.dl = t.dl

/-- A PUSH and a display operation give the same state in either order, in both settings of ATOMIC_OPS
(20_memory.md R63, 43_display_drive.md R145, 44_render.md R166). -/
def Obligations.PushCommutesWithDisplayOperations : Prop :=
  ∀ (b : Byte) (i : Instr) (s : State), displayOperation i = true →
    ∃ t, execAll [.push b, i] s = .next t ∧ execAll [i, .push b] s = .next t

/-- PUSHes that land anywhere among the SHIFTs and the LATCH of a SHOW change nothing the SHOW does: the outcome is that of
the SHOW and then the PUSHes (43_display_drive.md R145). That SHOW itself is one transition is the model's reading (log 22). -/
def Obligations.PushesInsideShowChangeNothing : Prop :=
  ∀ (is : List Instr) (s : State), is.filter (fun i => !isPush i) = showSequence s →
    ∃ t, execAll is s = .next t ∧ execAll (.showOut :: is.filter isPush) s = .next t

/-! ## The display command surface -/

/-- Every pseudo-operation that is not refused makes one LOADPOS for each position, 0 to 7, and one SHOW, all of them
foreground operations with a word of their own (44_render.md R167, 30_encoding.md R83). -/
def Obligations.ExpansionsAreEightLoadsAndAShow : Prop :=
  ∀ (p : Pseudo) (is : List Instr), expand p = .ok is →
    (∃ syms : Vector Symbol 8, is =
      ((List.finRange 8).map fun q => Instr.loadpos (BitVec.ofNat 3 q.val) (symbolCode syms[q])) ++ [.showOut]) ∧
    ∀ i ∈ is, decode (encode i) .foreground = .ok i

/-- The character map (44_render.md R161). -/
def Obligations.CharacterMap : Prop :=
  (∀ d : Fin 10, charSymbol (BitVec.ofNat 8 (0x30 + d.val)) = .digit d) ∧ charSymbol 0x2E#8 = .dot ∧
  (∀ c : Byte, (c.toNat < 0x30 ∨ 0x39 < c.toNat) → c ≠ 0x2E#8 → charSymbol c = .blank)

/-- The numeric form is RENDER_TEXT with the sign requested (44_render.md R162). -/
def Obligations.NumericFormIsText : Prop :=
  ∀ s : List Byte, expand (.numeric s) = expand (.text s true)

/-- The decimal form is RENDER_TEXT with the sign requested, for every string; the number of dots is not checked, and each
dot among the first eight bytes has its own position (44_render.md R163). -/
def Obligations.DecimalFormIsText : Prop :=
  ∀ s : List Byte, ∃ is, expand (.decimal s) = .ok is ∧ expand (.text s true) = .ok is ∧
    ∀ p, p < 8 → (∀ c ∈ s, c ≠ 0x00#8) → s[p]? = some 0x2E#8 →
      is[p]? = some (.loadpos (BitVec.ofNat 3 p) (symbolCode .dot))

/-- RENDER_TEXT: the operand ends at its first 0x00; a requested leading minus takes position 0 as the sign; each further
byte takes one position; positions with no byte are blank and bytes past position 7 are ignored (44_render.md R160). -/
def Obligations.TextTakesOnePositionAByte : Prop :=
  ∀ (body tail : List Byte) (sign : Bool), (∀ c ∈ body, c ≠ 0x00#8) → (tail = [] ∨ tail.head? = some 0x00#8) →
    expand (.text (body ++ tail) sign) = .ok
      (((List.range 8).map fun p => Instr.loadpos (BitVec.ofNat 3 p) (symbolCode
        (match body[p]? with
        | none => .blank
        | some c => if p = 0 ∧ sign = true ∧ c = 0x2D#8 then .sign else charSymbol c))) ++ [.showOut])

/-- RENDER_TIME of three values in range shows what RENDER_TEXT shows of the eight bytes HH.MM.SS (44_render.md R164). -/
def Obligations.TimeIsItsText : Prop :=
  ∀ hh mm ss : Fin 100,
    let tens : Fin 100 → Byte := fun v => BitVec.ofNat 8 (0x30 + v.val / 10)
    let ones : Fin 100 → Byte := fun v => BitVec.ofNat 8 (0x30 + v.val % 10)
    expand (.time hh.val mm.val ss.val) =
      expand (.text [tens hh, ones hh, 0x2E#8, tens mm, ones mm, 0x2E#8, tens ss, ones ss] false)

/-- A pseudo-operation is refused exactly when it has an operand out of range, with reason OperandRange; RENDER_DIGITS of
eight values in range loads digit dp at position p, for p from 0 to 7, and shows (44_render.md R164, R165). -/
def Obligations.RendersRefuseOutOfRangeOperands : Prop :=
  (∀ hh mm ss : Int, (hh < 0 ∨ 99 < hh ∨ mm < 0 ∨ 99 < mm ∨ ss < 0 ∨ 99 < ss) →
    expand (.time hh mm ss) = .error .operandRange) ∧
  (∀ d : Vector Int 8, (∃ q : Fin 8, d[q] < 0 ∨ 9 < d[q]) → expand (.digits d) = .error .operandRange) ∧
  (∀ d : Vector Int 8, (∀ q : Fin 8, 0 ≤ d[q] ∧ d[q] ≤ 9) → expand (.digits d) = .ok
    (((List.finRange 8).map fun q => Instr.loadpos (BitVec.ofNat 3 q.val) (BitVec.ofNat 4 d[q].toNat)) ++ [.showOut])) ∧
  (∀ p : Pseudo, p.wellFormed = true → ∃ is, expand p = .ok is)

/-- The eight loads and the SHOW of a pseudo-operation put each symbol, under the active mask and polarity, on its line, and
leave the ring and CFG as they were (44_render.md section RENDER_TEXT to RENDER_DIGITS, 42_display_encode.md R124,
43_display_drive.md R144). -/
def Obligations.RenderShowsItsSymbols : Prop :=
  ∀ (s : State) (syms : Vector Symbol 8), ∃ t, execAll (loadAndShow syms.toList) s = .next t ∧
    (∀ (p l : Fin 8), l.val = 7 - p.val →
      t.dcode[p] = codeword s.params syms[p] ∧
      t.latch[l] =
        (let c := if s.cfg.getLsbD p.val then codeword s.params syms[p] else 0x0000#16
         (if s.cfg.getLsbD 8 then c ^^^ 0x0FFF#16 else c).setWidth 12)) ∧
    SameRing s t ∧ t.cfg = s.cfg ∧ t.results = s.results ∧ SameControl s t

/-- A foreground turn at a pseudo-operation puts the words of its expansion in its place and changes nothing else of the
block; a refused one sets the refusal mark (44_render.md R166). That the expansion takes a turn of its own is the model's
choice (log 15). -/
def Obligations.RenderTurnIssuesItsWords : Prop :=
  ∀ (s : State) (ts : List Turn) (p : Pseudo) (rest : List Request),
    configurationRefusal s.params = none → s.turns = .foreground :: ts → s.inFlight = none →
      s.foregroundPort = .pseudo p :: rest →
      (∀ is, expand p = .ok is → step s = .next { s with
        turns := ts, foregroundPort := (is.map fun i => Request.command (encode i)) ++ rest }) ∧
      (∀ e, expand p = .error e →
        step s = .next { s with turns := ts, foregroundPort := rest, refused := true })
end

