-- ==== Sys2Proof/Laws/Memory.lean ====
section
/-! SUPPORT. The ring storage: a read after a write, and the canonical form every memory operation keeps. -/

namespace Sys2Proof.Machine

/-- The canonical form, as two facts. -/
theorem Memory.wf_iff (m : Memory) :
    Memory.wf m = true ↔ (m.Pairwise fun a b => a.1 < b.1) ∧ ∀ c ∈ m, c.2 ≠ unwrittenByte := by
  simp [Memory.wf]

@[simp] theorem Memory.read_nil (a : Nat) : Memory.read [] a = unwrittenByte := rfl

theorem Memory.read_of_not_mem (m : Memory) (k : Nat) (h : ∀ c ∈ m, c.1 ≠ k) : Memory.read m k = unwrittenByte := by
  induction m with
  | nil => rfl
  | cons c m ih =>
    have hc := h c (by simp)
    obtain ⟨a, b⟩ := c
    simp only [Memory.read, if_neg hc]
    exact ih fun d hd => h d (by simp [hd])

theorem Memory.read_filter (m : Memory) (k a : Nat) (h : a ≠ k) :
    Memory.read (m.filter fun c => c.1 != k) a = Memory.read m a := by
  induction m with
  | nil => rfl
  | cons c m ih =>
    obtain ⟨x, b⟩ := c
    by_cases hx : x = k
    · subst hx
      simp [Memory.read, Ne.symm h, ih]
    · simp [Memory.read, hx, ih]

theorem Memory.read_insert (m : Memory) (k a : Nat) (v : Byte) (hk : ∀ c ∈ m, c.1 ≠ k) :
    Memory.read (Memory.insert m k v) a = if a = k then v else Memory.read m a := by
  induction m with
  | nil => simp [Memory.insert, Memory.read, eq_comm]
  | cons c m ih =>
    obtain ⟨x, b⟩ := c
    have hx : x ≠ k := hk (x, b) (by simp)
    have ih' := ih fun d hd => hk d (by simp [hd])
    simp only [Memory.insert]
    split
    · simp [Memory.read, eq_comm]
    · simp only [Memory.read, ih']
      by_cases ha : a = k
      · subst ha; simp [hx]
      · simp [ha]

/-- A read after a write: the written slot holds the byte, every other slot what it held. -/
@[simp] theorem Memory.read_write (m : Memory) (k a : Nat) (v : Byte) :
    Memory.read (Memory.write m k v) a = if a = k then v else Memory.read m a := by
  have hk : ∀ c ∈ m.filter (fun c => c.1 != k), c.1 ≠ k := fun c hc => by simpa using (List.mem_filter.1 hc).2
  have hread : ∀ a, a ≠ k → Memory.read (m.filter fun c => c.1 != k) a = Memory.read m a :=
    fun a h => Memory.read_filter m k a h
  simp only [Memory.write]
  split
  · rename_i hv
    by_cases ha : a = k
    · rw [ha, Memory.read_of_not_mem _ _ hk]; simp [hv]
    · rw [hread a ha]; simp [ha]
  · rw [Memory.read_insert _ _ _ _ hk]
    by_cases ha : a = k
    · simp [ha]
    · simp [ha, hread a ha]

theorem Memory.mem_insert (m : Memory) (k : Nat) (v : Byte) (c : Host.Cell) :
    c ∈ Memory.insert m k v ↔ c = (k, v) ∨ c ∈ m := by
  induction m with
  | nil => simp [Memory.insert]
  | cons d m ih =>
    obtain ⟨x, b⟩ := d
    simp only [Memory.insert]
    split
    · simp
    · simp only [List.mem_cons, ih]; tauto

theorem Memory.pairwise_insert (m : Memory) (k : Nat) (v : Byte) (hk : ∀ c ∈ m, c.1 ≠ k)
    (h : m.Pairwise fun a b => a.1 < b.1) : (Memory.insert m k v).Pairwise fun a b => a.1 < b.1 := by
  induction m with
  | nil => simp [Memory.insert]
  | cons d m ih =>
    obtain ⟨x, b⟩ := d
    have hx : x ≠ k := hk (x, b) (by simp)
    obtain ⟨h1, h2⟩ := List.pairwise_cons.1 h
    simp only [Memory.insert]
    split
    · rename_i hlt
      refine List.pairwise_cons.2 ⟨?_, h⟩
      intro c hc
      rcases List.mem_cons.1 hc with rfl | hc
      · exact hlt
      · exact lt_trans hlt (h1 c hc)
    · rename_i hge
      refine List.pairwise_cons.2 ⟨?_, ih (fun d hd => hk d (by simp [hd])) h2⟩
      intro c hc
      rcases (Memory.mem_insert m k v c).1 hc with rfl | hc
      · exact lt_of_le_of_ne (not_lt.1 hge) hx
      · exact h1 c hc

/-- A write keeps the canonical form. -/
theorem Memory.write_wf (m : Memory) (k : Nat) (v : Byte) (h : Memory.wf m = true) :
    Memory.wf (Memory.write m k v) = true := by
  rw [Memory.wf_iff] at h ⊢
  have hp := h.1.filter fun c => c.1 != k
  have hb : ∀ c ∈ m.filter (fun c => c.1 != k), c.2 ≠ unwrittenByte := fun c hc => h.2 c (List.mem_filter.1 hc).1
  simp only [Memory.write]
  split
  · exact ⟨hp, hb⟩
  · rename_i hv
    have hk : ∀ c ∈ m.filter (fun c => c.1 != k), c.1 ≠ k := fun c hc => by simpa using (List.mem_filter.1 hc).2
    refine ⟨Memory.pairwise_insert _ k v hk hp, fun c hc => ?_⟩
    rcases (Memory.mem_insert _ k v c).1 hc with rfl | hc
    · exact hv
    · exact hb c hc

/-- A write below `n` to a memory whose slots are below `n` leaves them there. -/
theorem Memory.write_slots (m : Memory) (k n : Nat) (v : Byte) (hk : k < n) (h : ∀ c ∈ m, c.1 < n) :
    ∀ c ∈ Memory.write m k v, c.1 < n := by
  intro c hc
  simp only [Memory.write] at hc
  split at hc
  · exact h c (List.mem_filter.1 hc).1
  · rcases (Memory.mem_insert _ k v c).1 hc with rfl | hc
    · exact hk
    · exact h c (List.mem_filter.1 hc).1

theorem mem_drawnSlots (n : Nat) (f : Nat → Byte) (c : Host.Cell) :
    c ∈ drawnSlots n f ↔ c.1 < n ∧ f c.1 ≠ unwrittenByte ∧ c.2 = f c.1 := by
  obtain ⟨a, b⟩ := c
  simp only [drawnSlots, List.mem_filterMap, List.mem_range]
  constructor
  · rintro ⟨i, hi, h⟩
    split at h
    · cases h
    · rename_i hne
      simp only [Option.some.injEq, Prod.mk.injEq] at h
      obtain ⟨rfl, rfl⟩ := h
      exact ⟨hi, hne, rfl⟩
  · rintro ⟨hi, hne, hb⟩
    change b = f a at hb
    exact ⟨a, hi, by rw [if_neg hne, hb]⟩

/-- The drawn contents are in canonical form. -/
theorem drawnSlots_wf (n : Nat) (f : Nat → Byte) : Memory.wf (drawnSlots n f) = true := by
  rw [Memory.wf_iff]
  refine ⟨?_, fun c hc => ?_⟩
  · unfold drawnSlots
    refine List.Pairwise.filterMap _ ?_ List.pairwise_lt_range
    intro a b hab c hc d hd
    simp only [Option.ite_none_left_eq_some, Option.some.injEq] at hc hd
    obtain ⟨-, rfl⟩ := hc
    obtain ⟨-, rfl⟩ := hd
    exact hab
  · obtain ⟨-, h1, h2⟩ := (mem_drawnSlots n f c).1 hc
    rwa [h2]

theorem Memory.read_of_mem (m : Memory) (c : Host.Cell) (h : m.Pairwise fun a b => a.1 < b.1) (hc : c ∈ m) :
    Memory.read m c.1 = c.2 := by
  induction m with
  | nil => cases hc
  | cons d m ih =>
    obtain ⟨x, b⟩ := d
    obtain ⟨h1, h2⟩ := List.pairwise_cons.1 h
    rcases List.mem_cons.1 hc with rfl | hc
    · simp [Memory.read]
    · have : x ≠ c.1 := Nat.ne_of_lt (h1 c hc)
      simp [Memory.read, this, ih h2 hc]

/-- Each drawn slot reads as its draw. -/
theorem read_drawnSlots (n : Nat) (f : Nat → Byte) (a : Nat) :
    Memory.read (drawnSlots n f) a = if a < n then f a else unwrittenByte := by
  by_cases h : a < n ∧ f a ≠ unwrittenByte
  · have hm : ((a, f a) : Host.Cell) ∈ drawnSlots n f := (mem_drawnSlots n f _).2 ⟨h.1, h.2, rfl⟩
    have := Memory.read_of_mem _ _ ((Memory.wf_iff _).1 (drawnSlots_wf n f)).1 hm
    simpa [h.1] using this
  · have hn : Memory.read (drawnSlots n f) a = unwrittenByte := by
      apply Memory.read_of_not_mem
      rintro c hc rfl
      obtain ⟨h1, h2, -⟩ := (mem_drawnSlots n f c).1 hc
      exact h ⟨h1, h2⟩
    rw [hn]
    split
    · rename_i hlt
      by_contra hne
      exact h ⟨hlt, fun he => hne he.symm⟩
    · rfl

end Sys2Proof.Machine
end

