-- ==== Sys2Proof/Laws/Operands.lean ====
section
/-! SUPPORT. The operand forms: reading each field of a word put together from its fields. -/

namespace Sys2Proof.Machine

@[simp] theorem eachOfEight_get {α : Type} (f : Fin 8 → α) (i : Fin 8) : (eachOfEight f)[i] = f i := by
  fin_cases i <;> rfl

/-- Two tables of eight are equal when they agree at every place. -/
theorem eight_ext {α : Type} {v u : Vector α 8} (h : ∀ i : Fin 8, v[i] = u[i]) : v = u :=
  Vector.ext fun i hi => h ⟨i, hi⟩

theorem eachOfEight_eta {α : Type} (v : Vector α 8) : (eachOfEight fun i => v[i]) = v :=
  eight_ext fun i => eachOfEight_get _ i

@[simp] theorem reversed_val (p : Fin 8) : (reversed p).val = 7 - p.val := rfl

@[simp] theorem reversed_reversed (p : Fin 8) : reversed (reversed p) = p := by
  ext; simp only [reversed_val]; omega

@[simp] theorem lineByte_get (f : Fin 8 → Bool) (l : Fin 8) : (lineByte f)[l] = f l := by
  have h : ∀ a b c d e g h i : Bool, ∀ l : Fin 8,
      (BitVec.ofBoolListLE [a, b, c, d, e, g, h, i])[l] = [a, b, c, d, e, g, h, i][l] := by decide
  rw [lineByte, h]
  fin_cases l <;> rfl

@[simp] theorem configEn_configWord (en : Byte) (pol : BitVec 1) : configEn (configWord en pol) = en := by
  revert en pol; decide

@[simp] theorem configPol_configWord (en : Byte) (pol : BitVec 1) : configPol (configWord en pol) = pol := by
  revert en pol; decide

@[simp] theorem symbolOf_symbolCode (y : Symbol) : symbolOf (symbolCode y) = some y := by
  cases y with
  | digit d => revert d; decide
  | dot => decide
  | sign => decide
  | blank => decide

/-- A symbol code is reserved exactly when it names no symbol. -/
theorem symbolOf_eq_none_iff (sym : BitVec 4) : symbolOf sym = none ↔ reservedSymbol sym = true := by
  revert sym; decide

/-- A code that names a symbol is that symbol's code. -/
theorem symbolCode_of_symbolOf (sym : BitVec 4) (y : Symbol) (h : symbolOf sym = some y) : symbolCode y = sym := by
  have key : ∀ c : BitVec 4, (symbolOf c).map symbolCode = none ∨ (symbolOf c).map symbolCode = some c := by decide
  simpa [h] using key sym

@[simp] theorem position_ofNat (p : Fin 8) : position (BitVec.ofNat 3 p.val) = p := by
  revert p; decide

@[simp] theorem popResult_empty (e : Bool) (v : Byte) : (popResult e v)[8] = e := by
  revert e v; decide

@[simp] theorem popResult_byte (e : Bool) (v : Byte) : (popResult e v).extractLsb' 0 8 = v := by
  revert e v; decide

end Sys2Proof.Machine
end

