-- ==== Sys2Proof/Laws/State.lean ====
section
/-! SUPPORT. One lemma per field per update of State, and what reset leaves in each field. -/

namespace Sys2Proof.Machine

section
variable (s : State) (v : Nat)
@[simp] theorem State.setW_params : (s.setW v).params = s.params := rfl
@[simp] theorem State.setW_w : (s.setW v).w = v := rfl
@[simp] theorem State.setW_r : (s.setW v).r = s.r := rfl
@[simp] theorem State.setW_buf : (s.setW v).buf = s.buf := rfl
@[simp] theorem State.setW_cfg : (s.setW v).cfg = s.cfg := rfl
@[simp] theorem State.setW_dcode : (s.setW v).dcode = s.dcode := rfl
@[simp] theorem State.setW_chain : (s.setW v).chain = s.chain := rfl
@[simp] theorem State.setW_latch : (s.setW v).latch = s.latch := rfl
@[simp] theorem State.setW_dl : (s.setW v).dl = s.dl := rfl
@[simp] theorem State.setW_sclk : (s.setW v).sclk = s.sclk := rfl
@[simp] theorem State.setW_lat : (s.setW v).lat = s.lat := rfl
@[simp] theorem State.setW_refused : (s.setW v).refused = s.refused := rfl
@[simp] theorem State.setW_inFlight : (s.setW v).inFlight = s.inFlight := rfl
@[simp] theorem State.setW_results : (s.setW v).results = s.results := rfl
@[simp] theorem State.setW_producerPort : (s.setW v).producerPort = s.producerPort := rfl
@[simp] theorem State.setW_foregroundPort : (s.setW v).foregroundPort = s.foregroundPort := rfl
@[simp] theorem State.setW_turns : (s.setW v).turns = s.turns := rfl
@[simp] theorem State.setW_draws : (s.setW v).draws = s.draws := rfl
end

section
variable (s : State) (v : Nat)
@[simp] theorem State.setR_params : (s.setR v).params = s.params := rfl
@[simp] theorem State.setR_w : (s.setR v).w = s.w := rfl
@[simp] theorem State.setR_r : (s.setR v).r = v := rfl
@[simp] theorem State.setR_buf : (s.setR v).buf = s.buf := rfl
@[simp] theorem State.setR_cfg : (s.setR v).cfg = s.cfg := rfl
@[simp] theorem State.setR_dcode : (s.setR v).dcode = s.dcode := rfl
@[simp] theorem State.setR_chain : (s.setR v).chain = s.chain := rfl
@[simp] theorem State.setR_latch : (s.setR v).latch = s.latch := rfl
@[simp] theorem State.setR_dl : (s.setR v).dl = s.dl := rfl
@[simp] theorem State.setR_sclk : (s.setR v).sclk = s.sclk := rfl
@[simp] theorem State.setR_lat : (s.setR v).lat = s.lat := rfl
@[simp] theorem State.setR_refused : (s.setR v).refused = s.refused := rfl
@[simp] theorem State.setR_inFlight : (s.setR v).inFlight = s.inFlight := rfl
@[simp] theorem State.setR_results : (s.setR v).results = s.results := rfl
@[simp] theorem State.setR_producerPort : (s.setR v).producerPort = s.producerPort := rfl
@[simp] theorem State.setR_foregroundPort : (s.setR v).foregroundPort = s.foregroundPort := rfl
@[simp] theorem State.setR_turns : (s.setR v).turns = s.turns := rfl
@[simp] theorem State.setR_draws : (s.setR v).draws = s.draws := rfl
end

section
variable (s : State) (v : Memory)
@[simp] theorem State.setBuf_params : (s.setBuf v).params = s.params := rfl
@[simp] theorem State.setBuf_w : (s.setBuf v).w = s.w := rfl
@[simp] theorem State.setBuf_r : (s.setBuf v).r = s.r := rfl
@[simp] theorem State.setBuf_buf : (s.setBuf v).buf = v := rfl
@[simp] theorem State.setBuf_cfg : (s.setBuf v).cfg = s.cfg := rfl
@[simp] theorem State.setBuf_dcode : (s.setBuf v).dcode = s.dcode := rfl
@[simp] theorem State.setBuf_chain : (s.setBuf v).chain = s.chain := rfl
@[simp] theorem State.setBuf_latch : (s.setBuf v).latch = s.latch := rfl
@[simp] theorem State.setBuf_dl : (s.setBuf v).dl = s.dl := rfl
@[simp] theorem State.setBuf_sclk : (s.setBuf v).sclk = s.sclk := rfl
@[simp] theorem State.setBuf_lat : (s.setBuf v).lat = s.lat := rfl
@[simp] theorem State.setBuf_refused : (s.setBuf v).refused = s.refused := rfl
@[simp] theorem State.setBuf_inFlight : (s.setBuf v).inFlight = s.inFlight := rfl
@[simp] theorem State.setBuf_results : (s.setBuf v).results = s.results := rfl
@[simp] theorem State.setBuf_producerPort : (s.setBuf v).producerPort = s.producerPort := rfl
@[simp] theorem State.setBuf_foregroundPort : (s.setBuf v).foregroundPort = s.foregroundPort := rfl
@[simp] theorem State.setBuf_turns : (s.setBuf v).turns = s.turns := rfl
@[simp] theorem State.setBuf_draws : (s.setBuf v).draws = s.draws := rfl
end

section
variable (s : State) (v : BitVec 9)
@[simp] theorem State.setCfg_params : (s.setCfg v).params = s.params := rfl
@[simp] theorem State.setCfg_w : (s.setCfg v).w = s.w := rfl
@[simp] theorem State.setCfg_r : (s.setCfg v).r = s.r := rfl
@[simp] theorem State.setCfg_buf : (s.setCfg v).buf = s.buf := rfl
@[simp] theorem State.setCfg_cfg : (s.setCfg v).cfg = v := rfl
@[simp] theorem State.setCfg_dcode : (s.setCfg v).dcode = s.dcode := rfl
@[simp] theorem State.setCfg_chain : (s.setCfg v).chain = s.chain := rfl
@[simp] theorem State.setCfg_latch : (s.setCfg v).latch = s.latch := rfl
@[simp] theorem State.setCfg_dl : (s.setCfg v).dl = s.dl := rfl
@[simp] theorem State.setCfg_sclk : (s.setCfg v).sclk = s.sclk := rfl
@[simp] theorem State.setCfg_lat : (s.setCfg v).lat = s.lat := rfl
@[simp] theorem State.setCfg_refused : (s.setCfg v).refused = s.refused := rfl
@[simp] theorem State.setCfg_inFlight : (s.setCfg v).inFlight = s.inFlight := rfl
@[simp] theorem State.setCfg_results : (s.setCfg v).results = s.results := rfl
@[simp] theorem State.setCfg_producerPort : (s.setCfg v).producerPort = s.producerPort := rfl
@[simp] theorem State.setCfg_foregroundPort : (s.setCfg v).foregroundPort = s.foregroundPort := rfl
@[simp] theorem State.setCfg_turns : (s.setCfg v).turns = s.turns := rfl
@[simp] theorem State.setCfg_draws : (s.setCfg v).draws = s.draws := rfl
end

section
variable (s : State) (v : Vector Codeword 8)
@[simp] theorem State.setDcode_params : (s.setDcode v).params = s.params := rfl
@[simp] theorem State.setDcode_w : (s.setDcode v).w = s.w := rfl
@[simp] theorem State.setDcode_r : (s.setDcode v).r = s.r := rfl
@[simp] theorem State.setDcode_buf : (s.setDcode v).buf = s.buf := rfl
@[simp] theorem State.setDcode_cfg : (s.setDcode v).cfg = s.cfg := rfl
@[simp] theorem State.setDcode_dcode : (s.setDcode v).dcode = v := rfl
@[simp] theorem State.setDcode_chain : (s.setDcode v).chain = s.chain := rfl
@[simp] theorem State.setDcode_latch : (s.setDcode v).latch = s.latch := rfl
@[simp] theorem State.setDcode_dl : (s.setDcode v).dl = s.dl := rfl
@[simp] theorem State.setDcode_sclk : (s.setDcode v).sclk = s.sclk := rfl
@[simp] theorem State.setDcode_lat : (s.setDcode v).lat = s.lat := rfl
@[simp] theorem State.setDcode_refused : (s.setDcode v).refused = s.refused := rfl
@[simp] theorem State.setDcode_inFlight : (s.setDcode v).inFlight = s.inFlight := rfl
@[simp] theorem State.setDcode_results : (s.setDcode v).results = s.results := rfl
@[simp] theorem State.setDcode_producerPort : (s.setDcode v).producerPort = s.producerPort := rfl
@[simp] theorem State.setDcode_foregroundPort : (s.setDcode v).foregroundPort = s.foregroundPort := rfl
@[simp] theorem State.setDcode_turns : (s.setDcode v).turns = s.turns := rfl
@[simp] theorem State.setDcode_draws : (s.setDcode v).draws = s.draws := rfl
end

section
variable (s : State) (v : Vector Stages 8)
@[simp] theorem State.setChain_params : (s.setChain v).params = s.params := rfl
@[simp] theorem State.setChain_w : (s.setChain v).w = s.w := rfl
@[simp] theorem State.setChain_r : (s.setChain v).r = s.r := rfl
@[simp] theorem State.setChain_buf : (s.setChain v).buf = s.buf := rfl
@[simp] theorem State.setChain_cfg : (s.setChain v).cfg = s.cfg := rfl
@[simp] theorem State.setChain_dcode : (s.setChain v).dcode = s.dcode := rfl
@[simp] theorem State.setChain_chain : (s.setChain v).chain = v := rfl
@[simp] theorem State.setChain_latch : (s.setChain v).latch = s.latch := rfl
@[simp] theorem State.setChain_dl : (s.setChain v).dl = s.dl := rfl
@[simp] theorem State.setChain_sclk : (s.setChain v).sclk = s.sclk := rfl
@[simp] theorem State.setChain_lat : (s.setChain v).lat = s.lat := rfl
@[simp] theorem State.setChain_refused : (s.setChain v).refused = s.refused := rfl
@[simp] theorem State.setChain_inFlight : (s.setChain v).inFlight = s.inFlight := rfl
@[simp] theorem State.setChain_results : (s.setChain v).results = s.results := rfl
@[simp] theorem State.setChain_producerPort : (s.setChain v).producerPort = s.producerPort := rfl
@[simp] theorem State.setChain_foregroundPort : (s.setChain v).foregroundPort = s.foregroundPort := rfl
@[simp] theorem State.setChain_turns : (s.setChain v).turns = s.turns := rfl
@[simp] theorem State.setChain_draws : (s.setChain v).draws = s.draws := rfl
end

section
variable (s : State) (v : Vector Stages 8)
@[simp] theorem State.setLatch_params : (s.setLatch v).params = s.params := rfl
@[simp] theorem State.setLatch_w : (s.setLatch v).w = s.w := rfl
@[simp] theorem State.setLatch_r : (s.setLatch v).r = s.r := rfl
@[simp] theorem State.setLatch_buf : (s.setLatch v).buf = s.buf := rfl
@[simp] theorem State.setLatch_cfg : (s.setLatch v).cfg = s.cfg := rfl
@[simp] theorem State.setLatch_dcode : (s.setLatch v).dcode = s.dcode := rfl
@[simp] theorem State.setLatch_chain : (s.setLatch v).chain = s.chain := rfl
@[simp] theorem State.setLatch_latch : (s.setLatch v).latch = v := rfl
@[simp] theorem State.setLatch_dl : (s.setLatch v).dl = s.dl := rfl
@[simp] theorem State.setLatch_sclk : (s.setLatch v).sclk = s.sclk := rfl
@[simp] theorem State.setLatch_lat : (s.setLatch v).lat = s.lat := rfl
@[simp] theorem State.setLatch_refused : (s.setLatch v).refused = s.refused := rfl
@[simp] theorem State.setLatch_inFlight : (s.setLatch v).inFlight = s.inFlight := rfl
@[simp] theorem State.setLatch_results : (s.setLatch v).results = s.results := rfl
@[simp] theorem State.setLatch_producerPort : (s.setLatch v).producerPort = s.producerPort := rfl
@[simp] theorem State.setLatch_foregroundPort : (s.setLatch v).foregroundPort = s.foregroundPort := rfl
@[simp] theorem State.setLatch_turns : (s.setLatch v).turns = s.turns := rfl
@[simp] theorem State.setLatch_draws : (s.setLatch v).draws = s.draws := rfl
end

section
variable (s : State) (v : Byte)
@[simp] theorem State.setDl_params : (s.setDl v).params = s.params := rfl
@[simp] theorem State.setDl_w : (s.setDl v).w = s.w := rfl
@[simp] theorem State.setDl_r : (s.setDl v).r = s.r := rfl
@[simp] theorem State.setDl_buf : (s.setDl v).buf = s.buf := rfl
@[simp] theorem State.setDl_cfg : (s.setDl v).cfg = s.cfg := rfl
@[simp] theorem State.setDl_dcode : (s.setDl v).dcode = s.dcode := rfl
@[simp] theorem State.setDl_chain : (s.setDl v).chain = s.chain := rfl
@[simp] theorem State.setDl_latch : (s.setDl v).latch = s.latch := rfl
@[simp] theorem State.setDl_dl : (s.setDl v).dl = v := rfl
@[simp] theorem State.setDl_sclk : (s.setDl v).sclk = s.sclk := rfl
@[simp] theorem State.setDl_lat : (s.setDl v).lat = s.lat := rfl
@[simp] theorem State.setDl_refused : (s.setDl v).refused = s.refused := rfl
@[simp] theorem State.setDl_inFlight : (s.setDl v).inFlight = s.inFlight := rfl
@[simp] theorem State.setDl_results : (s.setDl v).results = s.results := rfl
@[simp] theorem State.setDl_producerPort : (s.setDl v).producerPort = s.producerPort := rfl
@[simp] theorem State.setDl_foregroundPort : (s.setDl v).foregroundPort = s.foregroundPort := rfl
@[simp] theorem State.setDl_turns : (s.setDl v).turns = s.turns := rfl
@[simp] theorem State.setDl_draws : (s.setDl v).draws = s.draws := rfl
end

section
variable (s : State) (v : Bool)
@[simp] theorem State.setSclk_params : (s.setSclk v).params = s.params := rfl
@[simp] theorem State.setSclk_w : (s.setSclk v).w = s.w := rfl
@[simp] theorem State.setSclk_r : (s.setSclk v).r = s.r := rfl
@[simp] theorem State.setSclk_buf : (s.setSclk v).buf = s.buf := rfl
@[simp] theorem State.setSclk_cfg : (s.setSclk v).cfg = s.cfg := rfl
@[simp] theorem State.setSclk_dcode : (s.setSclk v).dcode = s.dcode := rfl
@[simp] theorem State.setSclk_chain : (s.setSclk v).chain = s.chain := rfl
@[simp] theorem State.setSclk_latch : (s.setSclk v).latch = s.latch := rfl
@[simp] theorem State.setSclk_dl : (s.setSclk v).dl = s.dl := rfl
@[simp] theorem State.setSclk_sclk : (s.setSclk v).sclk = v := rfl
@[simp] theorem State.setSclk_lat : (s.setSclk v).lat = s.lat := rfl
@[simp] theorem State.setSclk_refused : (s.setSclk v).refused = s.refused := rfl
@[simp] theorem State.setSclk_inFlight : (s.setSclk v).inFlight = s.inFlight := rfl
@[simp] theorem State.setSclk_results : (s.setSclk v).results = s.results := rfl
@[simp] theorem State.setSclk_producerPort : (s.setSclk v).producerPort = s.producerPort := rfl
@[simp] theorem State.setSclk_foregroundPort : (s.setSclk v).foregroundPort = s.foregroundPort := rfl
@[simp] theorem State.setSclk_turns : (s.setSclk v).turns = s.turns := rfl
@[simp] theorem State.setSclk_draws : (s.setSclk v).draws = s.draws := rfl
end

section
variable (s : State) (v : Bool)
@[simp] theorem State.setLat_params : (s.setLat v).params = s.params := rfl
@[simp] theorem State.setLat_w : (s.setLat v).w = s.w := rfl
@[simp] theorem State.setLat_r : (s.setLat v).r = s.r := rfl
@[simp] theorem State.setLat_buf : (s.setLat v).buf = s.buf := rfl
@[simp] theorem State.setLat_cfg : (s.setLat v).cfg = s.cfg := rfl
@[simp] theorem State.setLat_dcode : (s.setLat v).dcode = s.dcode := rfl
@[simp] theorem State.setLat_chain : (s.setLat v).chain = s.chain := rfl
@[simp] theorem State.setLat_latch : (s.setLat v).latch = s.latch := rfl
@[simp] theorem State.setLat_dl : (s.setLat v).dl = s.dl := rfl
@[simp] theorem State.setLat_sclk : (s.setLat v).sclk = s.sclk := rfl
@[simp] theorem State.setLat_lat : (s.setLat v).lat = v := rfl
@[simp] theorem State.setLat_refused : (s.setLat v).refused = s.refused := rfl
@[simp] theorem State.setLat_inFlight : (s.setLat v).inFlight = s.inFlight := rfl
@[simp] theorem State.setLat_results : (s.setLat v).results = s.results := rfl
@[simp] theorem State.setLat_producerPort : (s.setLat v).producerPort = s.producerPort := rfl
@[simp] theorem State.setLat_foregroundPort : (s.setLat v).foregroundPort = s.foregroundPort := rfl
@[simp] theorem State.setLat_turns : (s.setLat v).turns = s.turns := rfl
@[simp] theorem State.setLat_draws : (s.setLat v).draws = s.draws := rfl
end

section
variable (s : State) (v : Bool)
@[simp] theorem State.setRefused_params : (s.setRefused v).params = s.params := rfl
@[simp] theorem State.setRefused_w : (s.setRefused v).w = s.w := rfl
@[simp] theorem State.setRefused_r : (s.setRefused v).r = s.r := rfl
@[simp] theorem State.setRefused_buf : (s.setRefused v).buf = s.buf := rfl
@[simp] theorem State.setRefused_cfg : (s.setRefused v).cfg = s.cfg := rfl
@[simp] theorem State.setRefused_dcode : (s.setRefused v).dcode = s.dcode := rfl
@[simp] theorem State.setRefused_chain : (s.setRefused v).chain = s.chain := rfl
@[simp] theorem State.setRefused_latch : (s.setRefused v).latch = s.latch := rfl
@[simp] theorem State.setRefused_dl : (s.setRefused v).dl = s.dl := rfl
@[simp] theorem State.setRefused_sclk : (s.setRefused v).sclk = s.sclk := rfl
@[simp] theorem State.setRefused_lat : (s.setRefused v).lat = s.lat := rfl
@[simp] theorem State.setRefused_refused : (s.setRefused v).refused = v := rfl
@[simp] theorem State.setRefused_inFlight : (s.setRefused v).inFlight = s.inFlight := rfl
@[simp] theorem State.setRefused_results : (s.setRefused v).results = s.results := rfl
@[simp] theorem State.setRefused_producerPort : (s.setRefused v).producerPort = s.producerPort := rfl
@[simp] theorem State.setRefused_foregroundPort : (s.setRefused v).foregroundPort = s.foregroundPort := rfl
@[simp] theorem State.setRefused_turns : (s.setRefused v).turns = s.turns := rfl
@[simp] theorem State.setRefused_draws : (s.setRefused v).draws = s.draws := rfl
end

section
variable (s : State) (v : Option MicroOp)
@[simp] theorem State.setInFlight_params : (s.setInFlight v).params = s.params := rfl
@[simp] theorem State.setInFlight_w : (s.setInFlight v).w = s.w := rfl
@[simp] theorem State.setInFlight_r : (s.setInFlight v).r = s.r := rfl
@[simp] theorem State.setInFlight_buf : (s.setInFlight v).buf = s.buf := rfl
@[simp] theorem State.setInFlight_cfg : (s.setInFlight v).cfg = s.cfg := rfl
@[simp] theorem State.setInFlight_dcode : (s.setInFlight v).dcode = s.dcode := rfl
@[simp] theorem State.setInFlight_chain : (s.setInFlight v).chain = s.chain := rfl
@[simp] theorem State.setInFlight_latch : (s.setInFlight v).latch = s.latch := rfl
@[simp] theorem State.setInFlight_dl : (s.setInFlight v).dl = s.dl := rfl
@[simp] theorem State.setInFlight_sclk : (s.setInFlight v).sclk = s.sclk := rfl
@[simp] theorem State.setInFlight_lat : (s.setInFlight v).lat = s.lat := rfl
@[simp] theorem State.setInFlight_refused : (s.setInFlight v).refused = s.refused := rfl
@[simp] theorem State.setInFlight_inFlight : (s.setInFlight v).inFlight = v := rfl
@[simp] theorem State.setInFlight_results : (s.setInFlight v).results = s.results := rfl
@[simp] theorem State.setInFlight_producerPort : (s.setInFlight v).producerPort = s.producerPort := rfl
@[simp] theorem State.setInFlight_foregroundPort : (s.setInFlight v).foregroundPort = s.foregroundPort := rfl
@[simp] theorem State.setInFlight_turns : (s.setInFlight v).turns = s.turns := rfl
@[simp] theorem State.setInFlight_draws : (s.setInFlight v).draws = s.draws := rfl
end

section
variable (s : State) (v : List Result)
@[simp] theorem State.setResults_params : (s.setResults v).params = s.params := rfl
@[simp] theorem State.setResults_w : (s.setResults v).w = s.w := rfl
@[simp] theorem State.setResults_r : (s.setResults v).r = s.r := rfl
@[simp] theorem State.setResults_buf : (s.setResults v).buf = s.buf := rfl
@[simp] theorem State.setResults_cfg : (s.setResults v).cfg = s.cfg := rfl
@[simp] theorem State.setResults_dcode : (s.setResults v).dcode = s.dcode := rfl
@[simp] theorem State.setResults_chain : (s.setResults v).chain = s.chain := rfl
@[simp] theorem State.setResults_latch : (s.setResults v).latch = s.latch := rfl
@[simp] theorem State.setResults_dl : (s.setResults v).dl = s.dl := rfl
@[simp] theorem State.setResults_sclk : (s.setResults v).sclk = s.sclk := rfl
@[simp] theorem State.setResults_lat : (s.setResults v).lat = s.lat := rfl
@[simp] theorem State.setResults_refused : (s.setResults v).refused = s.refused := rfl
@[simp] theorem State.setResults_inFlight : (s.setResults v).inFlight = s.inFlight := rfl
@[simp] theorem State.setResults_results : (s.setResults v).results = v := rfl
@[simp] theorem State.setResults_producerPort : (s.setResults v).producerPort = s.producerPort := rfl
@[simp] theorem State.setResults_foregroundPort : (s.setResults v).foregroundPort = s.foregroundPort := rfl
@[simp] theorem State.setResults_turns : (s.setResults v).turns = s.turns := rfl
@[simp] theorem State.setResults_draws : (s.setResults v).draws = s.draws := rfl
end

section
variable (s : State) (v : List Command)
@[simp] theorem State.setProducerPort_params : (s.setProducerPort v).params = s.params := rfl
@[simp] theorem State.setProducerPort_w : (s.setProducerPort v).w = s.w := rfl
@[simp] theorem State.setProducerPort_r : (s.setProducerPort v).r = s.r := rfl
@[simp] theorem State.setProducerPort_buf : (s.setProducerPort v).buf = s.buf := rfl
@[simp] theorem State.setProducerPort_cfg : (s.setProducerPort v).cfg = s.cfg := rfl
@[simp] theorem State.setProducerPort_dcode : (s.setProducerPort v).dcode = s.dcode := rfl
@[simp] theorem State.setProducerPort_chain : (s.setProducerPort v).chain = s.chain := rfl
@[simp] theorem State.setProducerPort_latch : (s.setProducerPort v).latch = s.latch := rfl
@[simp] theorem State.setProducerPort_dl : (s.setProducerPort v).dl = s.dl := rfl
@[simp] theorem State.setProducerPort_sclk : (s.setProducerPort v).sclk = s.sclk := rfl
@[simp] theorem State.setProducerPort_lat : (s.setProducerPort v).lat = s.lat := rfl
@[simp] theorem State.setProducerPort_refused : (s.setProducerPort v).refused = s.refused := rfl
@[simp] theorem State.setProducerPort_inFlight : (s.setProducerPort v).inFlight = s.inFlight := rfl
@[simp] theorem State.setProducerPort_results : (s.setProducerPort v).results = s.results := rfl
@[simp] theorem State.setProducerPort_producerPort : (s.setProducerPort v).producerPort = v := rfl
@[simp] theorem State.setProducerPort_foregroundPort : (s.setProducerPort v).foregroundPort = s.foregroundPort := rfl
@[simp] theorem State.setProducerPort_turns : (s.setProducerPort v).turns = s.turns := rfl
@[simp] theorem State.setProducerPort_draws : (s.setProducerPort v).draws = s.draws := rfl
end

section
variable (s : State) (v : List Request)
@[simp] theorem State.setForegroundPort_params : (s.setForegroundPort v).params = s.params := rfl
@[simp] theorem State.setForegroundPort_w : (s.setForegroundPort v).w = s.w := rfl
@[simp] theorem State.setForegroundPort_r : (s.setForegroundPort v).r = s.r := rfl
@[simp] theorem State.setForegroundPort_buf : (s.setForegroundPort v).buf = s.buf := rfl
@[simp] theorem State.setForegroundPort_cfg : (s.setForegroundPort v).cfg = s.cfg := rfl
@[simp] theorem State.setForegroundPort_dcode : (s.setForegroundPort v).dcode = s.dcode := rfl
@[simp] theorem State.setForegroundPort_chain : (s.setForegroundPort v).chain = s.chain := rfl
@[simp] theorem State.setForegroundPort_latch : (s.setForegroundPort v).latch = s.latch := rfl
@[simp] theorem State.setForegroundPort_dl : (s.setForegroundPort v).dl = s.dl := rfl
@[simp] theorem State.setForegroundPort_sclk : (s.setForegroundPort v).sclk = s.sclk := rfl
@[simp] theorem State.setForegroundPort_lat : (s.setForegroundPort v).lat = s.lat := rfl
@[simp] theorem State.setForegroundPort_refused : (s.setForegroundPort v).refused = s.refused := rfl
@[simp] theorem State.setForegroundPort_inFlight : (s.setForegroundPort v).inFlight = s.inFlight := rfl
@[simp] theorem State.setForegroundPort_results : (s.setForegroundPort v).results = s.results := rfl
@[simp] theorem State.setForegroundPort_producerPort : (s.setForegroundPort v).producerPort = s.producerPort := rfl
@[simp] theorem State.setForegroundPort_foregroundPort : (s.setForegroundPort v).foregroundPort = v := rfl
@[simp] theorem State.setForegroundPort_turns : (s.setForegroundPort v).turns = s.turns := rfl
@[simp] theorem State.setForegroundPort_draws : (s.setForegroundPort v).draws = s.draws := rfl
end

section
variable (s : State) (v : List Turn)
@[simp] theorem State.setTurns_params : (s.setTurns v).params = s.params := rfl
@[simp] theorem State.setTurns_w : (s.setTurns v).w = s.w := rfl
@[simp] theorem State.setTurns_r : (s.setTurns v).r = s.r := rfl
@[simp] theorem State.setTurns_buf : (s.setTurns v).buf = s.buf := rfl
@[simp] theorem State.setTurns_cfg : (s.setTurns v).cfg = s.cfg := rfl
@[simp] theorem State.setTurns_dcode : (s.setTurns v).dcode = s.dcode := rfl
@[simp] theorem State.setTurns_chain : (s.setTurns v).chain = s.chain := rfl
@[simp] theorem State.setTurns_latch : (s.setTurns v).latch = s.latch := rfl
@[simp] theorem State.setTurns_dl : (s.setTurns v).dl = s.dl := rfl
@[simp] theorem State.setTurns_sclk : (s.setTurns v).sclk = s.sclk := rfl
@[simp] theorem State.setTurns_lat : (s.setTurns v).lat = s.lat := rfl
@[simp] theorem State.setTurns_refused : (s.setTurns v).refused = s.refused := rfl
@[simp] theorem State.setTurns_inFlight : (s.setTurns v).inFlight = s.inFlight := rfl
@[simp] theorem State.setTurns_results : (s.setTurns v).results = s.results := rfl
@[simp] theorem State.setTurns_producerPort : (s.setTurns v).producerPort = s.producerPort := rfl
@[simp] theorem State.setTurns_foregroundPort : (s.setTurns v).foregroundPort = s.foregroundPort := rfl
@[simp] theorem State.setTurns_turns : (s.setTurns v).turns = v := rfl
@[simp] theorem State.setTurns_draws : (s.setTurns v).draws = s.draws := rfl
end

section
variable (s : State) (v : Nat)
@[simp] theorem State.setDraws_params : (s.setDraws v).params = s.params := rfl
@[simp] theorem State.setDraws_w : (s.setDraws v).w = s.w := rfl
@[simp] theorem State.setDraws_r : (s.setDraws v).r = s.r := rfl
@[simp] theorem State.setDraws_buf : (s.setDraws v).buf = s.buf := rfl
@[simp] theorem State.setDraws_cfg : (s.setDraws v).cfg = s.cfg := rfl
@[simp] theorem State.setDraws_dcode : (s.setDraws v).dcode = s.dcode := rfl
@[simp] theorem State.setDraws_chain : (s.setDraws v).chain = s.chain := rfl
@[simp] theorem State.setDraws_latch : (s.setDraws v).latch = s.latch := rfl
@[simp] theorem State.setDraws_dl : (s.setDraws v).dl = s.dl := rfl
@[simp] theorem State.setDraws_sclk : (s.setDraws v).sclk = s.sclk := rfl
@[simp] theorem State.setDraws_lat : (s.setDraws v).lat = s.lat := rfl
@[simp] theorem State.setDraws_refused : (s.setDraws v).refused = s.refused := rfl
@[simp] theorem State.setDraws_inFlight : (s.setDraws v).inFlight = s.inFlight := rfl
@[simp] theorem State.setDraws_results : (s.setDraws v).results = s.results := rfl
@[simp] theorem State.setDraws_producerPort : (s.setDraws v).producerPort = s.producerPort := rfl
@[simp] theorem State.setDraws_foregroundPort : (s.setDraws v).foregroundPort = s.foregroundPort := rfl
@[simp] theorem State.setDraws_turns : (s.setDraws v).turns = s.turns := rfl
@[simp] theorem State.setDraws_draws : (s.setDraws v).draws = v := rfl
end

section
variable (p : Params) (d : Draws)
@[simp] theorem State.resetWith_params : (State.resetWith p d).params = p := rfl
@[simp] theorem State.resetWith_w : (State.resetWith p d).w = 0 := rfl
@[simp] theorem State.resetWith_r : (State.resetWith p d).r = 0 := rfl
@[simp] theorem State.resetWith_buf : (State.resetWith p d).buf = drawnSlots (2 ^ p.logN) d.slot := rfl
@[simp] theorem State.resetWith_cfg : (State.resetWith p d).cfg = configWord p.enableReset p.polReset := rfl
@[simp] theorem State.resetWith_dcode : (State.resetWith p d).dcode = eachOfEight fun _ => 0x0000#16 := rfl
@[simp] theorem State.resetWith_chain : (State.resetWith p d).chain = eachOfEight d.chain := rfl
@[simp] theorem State.resetWith_latch : (State.resetWith p d).latch = eachOfEight d.latch := rfl
@[simp] theorem State.resetWith_dl : (State.resetWith p d).dl = d.dl := rfl
@[simp] theorem State.resetWith_sclk : (State.resetWith p d).sclk = false := rfl
@[simp] theorem State.resetWith_lat : (State.resetWith p d).lat = false := rfl
@[simp] theorem State.resetWith_refused : (State.resetWith p d).refused = false := rfl
@[simp] theorem State.resetWith_inFlight : (State.resetWith p d).inFlight = none := rfl
@[simp] theorem State.resetWith_results : (State.resetWith p d).results = [] := rfl
@[simp] theorem State.resetWith_producerPort : (State.resetWith p d).producerPort = [] := rfl
@[simp] theorem State.resetWith_foregroundPort : (State.resetWith p d).foregroundPort = [] := rfl
@[simp] theorem State.resetWith_turns : (State.resetWith p d).turns = [] := rfl
@[simp] theorem State.resetWith_draws : (State.resetWith p d).draws = 0 := rfl
end

end Sys2Proof.Machine
end

