-- ==== Sys2Proof/Laws/Ops.lean ====
section
/-! SUPPORT. The shared operations: what each can do, said once. -/

namespace Sys2Proof.Machine

open Host (Outcome)

theorem capacity_pos (p : Params) : 0 < capacity p := Nat.two_pow_pos _

theorem indexModulus_pos (p : Params) : 0 < indexModulus p := Nat.two_pow_pos _

/-- Every slot number an operation uses exists. -/
theorem slotOf_lt (p : Params) (i : Nat) : slotOf p i < capacity p := Nat.mod_lt _ (capacity_pos p)

theorem nextIndex_lt (p : Params) (i : Nat) : nextIndex p i < indexModulus p := Nat.mod_lt _ (indexModulus_pos p)

theorem availOf_lt (p : Params) (w r : Nat) : availOf p w r < indexModulus p := Nat.mod_lt _ (indexModulus_pos p)

/-- A read of an index's slot answers with what the slot holds. -/
@[simp] theorem memRead_slotOf (s : State) (i : Nat) :
    memRead s (slotOf s.params i) = some (Memory.read s.buf (slotOf s.params i)) := by
  simp [memRead, slotOf_lt]

/-- A write to an index's slot stores the byte there. -/
theorem memWrite_slotOf (s : State) (p : Params) (i : Nat) (b : Byte) (h : s.params = p) :
    memWrite s (slotOf p i) b = some (s.setBuf (Memory.write s.buf (slotOf p i) b)) := by
  subst h; simp [memWrite, slotOf_lt]

@[simp] theorem orNoSuchSlot_some (s : State) : orNoSuchSlot (some s) = .next s := rfl

@[simp] theorem andThen_next (s : State) (f : State → Outcome State Fault Refusal) : andThen (.next s) f = f s := rfl

/-- What a configuration with a meaning satisfies (00_scope.md R6, R7, 70_reset_and_hazards.md R208). -/
theorem configurationRefusal_eq_none (p : Params) :
    configurationRefusal p = none ↔ 1 ≤ p.logN ∧ p.logN + 1 ≤ p.idxW ∧ 16 ≤ p.idxW ∧ p.tornIndex = false := by
  unfold configurationRefusal
  by_cases h : 1 ≤ p.logN ∧ p.logN + 1 ≤ p.idxW ∧ 16 ≤ p.idxW
  · obtain ⟨h1, h2, h3⟩ := h
    cases hT : p.tornIndex <;> simp [h1, h2, h3]
  · have hR : ¬(1 ≤ p.logN ∧ p.logN + 1 ≤ p.idxW ∧ 16 ≤ p.idxW ∧ p.tornIndex = false) :=
      fun h' => h ⟨h'.1, h'.2.1, h'.2.2.1⟩
    simp only [if_pos h, hR, reduceCtorEq]

/-- `N` divides `2^IDX_W`, and is at most half of it (41_ring.md R106). -/
theorem capacity_dvd_indexModulus (p : Params) (h : configurationRefusal p = none) :
    capacity p ∣ indexModulus p ∧ 2 * capacity p ≤ indexModulus p := by
  obtain ⟨-, h2, -⟩ := (configurationRefusal_eq_none p).1 h
  refine ⟨Nat.pow_dvd_pow 2 (by omega), ?_⟩
  have : 2 * capacity p = 2 ^ (p.logN + 1) := by rw [capacity, Nat.pow_succ, Nat.mul_comm]
  rw [this]
  exact Nat.pow_le_pow_right (by decide) h2

/-- P3 when the count it sees is `N` or more. -/
theorem pushRepair_full (wl rl : Nat) (s : State) (h : capacity s.params ≤ availOf s.params wl rl) :
    pushRepair wl rl s =
      s.setR ((wl + (indexModulus s.params - capacity s.params % indexModulus s.params) + 1) % indexModulus s.params) :=
  if_pos h

/-- P3 when the count it sees is below `N`. -/
theorem pushRepair_room (wl rl : Nat) (s : State) (h : ¬capacity s.params ≤ availOf s.params wl rl) :
    pushRepair wl rl s = s := if_neg h

/-- Everything an indivisible PUSH does. -/
theorem pushAtomic_eq (b : Byte) (s : State) :
    pushAtomic b s =
      .next (((dropOldestIfFull s).setBuf (Memory.write s.buf (slotOf s.params s.w) b)).setW (nextIndex s.params s.w)) := by
  have hp : (dropOldestIfFull s).params = s.params := by unfold dropOldestIfFull; split <;> rfl
  have hb : (dropOldestIfFull s).buf = s.buf := by unfold dropOldestIfFull; split <;> rfl
  rw [pushAtomic, memWrite_slotOf _ _ _ _ hp, hb]
  rfl

/-- Everything a PUSH by micro-steps does. -/
theorem pushSteps_eq (b : Byte) (s : State) :
    pushSteps b s =
      .next (((pushRepair s.w s.r s).setBuf (Memory.write s.buf (slotOf s.params s.w) b)).setW
        (nextIndex s.params s.w)) := by
  have hp : (pushRepair s.w s.r s).params = s.params := by unfold pushRepair; split <;> rfl
  have hb : (pushRepair s.w s.r s).buf = s.buf := by unfold pushRepair; split <;> rfl
  rw [pushSteps, memWrite_slotOf _ _ _ _ hp, hb]
  rfl

/-- Everything an indivisible POP does. -/
theorem popAtomic_eq (s : State) :
    popAtomic s =
      .next (if isEmpty s then giveResult s (.pop (popResult true 0x00#8))
        else giveResult (s.setR (nextIndex s.params s.r))
          (.pop (popResult false (Memory.read s.buf (slotOf s.params s.r))))) := by
  unfold popAtomic
  split <;> simp

/-- No micro-step stops. -/
theorem microStep_next (m : MicroOp) (s : State) : ∃ t, microStep m s = .next t := by
  cases m with
  | popC2 rl => exact ⟨_, rfl⟩
  | popC3 rl wl => simp only [microStep]; split <;> exact ⟨_, rfl⟩
  | popC4 rl =>
    simp only [microStep, publishedRead]
    split
    · exact ⟨_, rfl⟩
    · rw [memRead_slotOf]; exact ⟨_, rfl⟩
  | popC5 rl v => exact ⟨_, rfl⟩
  | popC6 v => exact ⟨_, rfl⟩
  | availA2 wl => exact ⟨_, rfl⟩
  | availA3 wl rl => exact ⟨_, rfl⟩

/-- A shift drives the lines, moves every chain by one stage, and leaves the clock released (43_display_drive.md R142). -/
theorem shiftChains_eq (d : Byte) (s : State) :
    shiftChains d s = ((s.setDl d).setChain (eachOfEight fun l => shiftIn s.chain[l] d[l])).setSclk false := rfl

/-- A latch copies all chains and leaves the latch line released (43_display_drive.md R143). -/
theorem latchChains_eq (s : State) : latchChains s = (s.setLatch s.chain).setLat false := rfl

end Sys2Proof.Machine
end

