-- ==== Sys2Proof/Laws/Index.lean ====
section
/-! SUPPORT. The index arithmetic of 41_ring.md R106, and the queue the ring holds. -/

namespace Sys2Proof.Machine

/-- The count of two indices in range, as plain arithmetic. -/
theorem availOf_cases (p : Params) (w r : Nat) (hw : w < indexModulus p) (hr : r < indexModulus p) :
    (r ≤ w ∧ availOf p w r = w - r) ∨ (w < r ∧ availOf p w r = w + indexModulus p - r) := by
  unfold availOf
  rw [Nat.mod_eq_of_lt hr]
  rcases Nat.lt_or_ge w r with h | h
  · right
    refine ⟨h, ?_⟩
    rw [Nat.mod_eq_of_lt (by omega)]
    omega
  · left
    refine ⟨h, ?_⟩
    rw [show w + (indexModulus p - r) = (w - r) + indexModulus p by omega, Nat.add_mod_right, Nat.mod_eq_of_lt (by omega)]

/-- The next index, as plain arithmetic. -/
theorem nextIndex_cases (p : Params) (i : Nat) (h : i < indexModulus p) :
    (i + 1 < indexModulus p ∧ nextIndex p i = i + 1) ∨ (i + 1 = indexModulus p ∧ nextIndex p i = 0) := by
  unfold nextIndex
  rcases Nat.lt_or_ge (i + 1) (indexModulus p) with h' | h'
  · exact .inl ⟨h', Nat.mod_eq_of_lt h'⟩
  · have : i + 1 = indexModulus p := by omega
    exact .inr ⟨this, by rw [this, Nat.mod_self]⟩

/-- The write index lies the count of held bytes after the read index. -/
theorem add_availOf (p : Params) (w r : Nat) (hw : w < indexModulus p) (hr : r < indexModulus p) :
    (r + availOf p w r) % indexModulus p = w := by
  rcases availOf_cases p w r hw hr with ⟨h, e⟩ | ⟨h, e⟩
  · rw [e, Nat.add_sub_cancel' h, Nat.mod_eq_of_lt hw]
  · rw [e, show r + (w + indexModulus p - r) = w + indexModulus p by omega, Nat.add_mod_right, Nat.mod_eq_of_lt hw]

/-- A count is zero exactly when the ring is empty (41_ring.md R106). -/
theorem availOf_eq_zero (p : Params) (w r : Nat) (hw : w < indexModulus p) (hr : r < indexModulus p) :
    availOf p w r = 0 ↔ w = r := by
  rcases availOf_cases p w r hw hr with ⟨h, e⟩ | ⟨h, e⟩ <;> rw [e] <;> omega

/-- The slot of an index reduced modulo `2^IDX_W` is the slot of the index (10_state.md R27). -/
theorem slotOf_mod (p : Params) (i : Nat) (h : configurationRefusal p = none) :
    slotOf p (i % indexModulus p) = slotOf p i :=
  Nat.mod_mod_of_dvd i (capacity_dvd_indexModulus p h).1

theorem slotOf_nextIndex_add (p : Params) (i k : Nat) (h : configurationRefusal p = none) :
    slotOf p (nextIndex p i + k) = slotOf p (i + (k + 1)) := by
  unfold slotOf nextIndex
  rw [Nat.add_mod, Nat.mod_mod_of_dvd _ (capacity_dvd_indexModulus p h).1, ← Nat.add_mod]
  congr 1
  omega

/-- Fewer than `N` places apart, two indices have two slots. -/
theorem slotOf_ne (p : Params) (i j k : Nat) (hjk : j < k) (hk : k < j + capacity p) :
    slotOf p (i + j) ≠ slotOf p (i + k) := by
  intro h
  unfold slotOf at h
  have h1 : (i + k) % capacity p = (i + j) % capacity p := h.symm
  have h2 : capacity p ∣ (i + k) - (i + j) := (Nat.modEq_iff_dvd' (by omega)).1 h1.symm
  have h3 : (i + k) - (i + j) = k - j := by omega
  rw [h3] at h2
  have := Nat.le_of_dvd (by omega) h2
  omega

/-- The bytes of `n` places from an index on. -/
def bytesFrom (p : Params) (m : Memory) (i n : Nat) : List Byte :=
  (List.range n).map fun k => Memory.read m (slotOf p (i + k))

/-- The queue, with the slots of the unreduced indices. -/
theorem held_eq_bytesFrom (s : State) (h : configurationRefusal s.params = none) :
    held s = bytesFrom s.params s.buf s.r (availCount s) := by
  unfold held bytesFrom indexAfter
  simp only [slotOf_mod _ _ h]

@[simp] theorem bytesFrom_length (p : Params) (m : Memory) (i n : Nat) : (bytesFrom p m i n).length = n := by
  simp [bytesFrom]

theorem held_length (s : State) : (held s).length = availCount s := by
  simp [held]

theorem bytesFrom_succ (p : Params) (m : Memory) (i n : Nat) :
    bytesFrom p m i (n + 1) = bytesFrom p m i n ++ [Memory.read m (slotOf p (i + n))] := by
  simp [bytesFrom, List.range_succ]

theorem bytesFrom_cons (p : Params) (m : Memory) (i n : Nat) (h : configurationRefusal p = none) :
    bytesFrom p m i (n + 1) = Memory.read m (slotOf p i) :: bytesFrom p m (nextIndex p i) n := by
  unfold bytesFrom
  rw [List.range_succ_eq_map]
  simp only [List.map_cons, Nat.add_zero, List.map_map]
  congr 1
  apply List.map_congr_left
  intro k _
  simp only [Function.comp, slotOf_nextIndex_add p i k h, Nat.succ_eq_add_one]

/-- Storing a byte past the places read leaves them as they were. -/
theorem bytesFrom_write (p : Params) (m : Memory) (i n k : Nat) (b : Byte) (hn : n ≤ k) (hk : k < capacity p) :
    bytesFrom p (Memory.write m (slotOf p (i + k)) b) i n = bytesFrom p m i n := by
  unfold bytesFrom
  apply List.map_congr_left
  intro j hj
  have hj' := List.mem_range.1 hj
  rw [Memory.read_write, if_neg (slotOf_ne p i j k (by omega) (by omega))]

/-- Storing a byte at the place after the ones read adds it to them. -/
theorem bytesFrom_push (p : Params) (m : Memory) (i n : Nat) (b : Byte) (hn : n < capacity p) :
    bytesFrom p (Memory.write m (slotOf p (i + n)) b) i (n + 1) = bytesFrom p m i n ++ [b] := by
  rw [bytesFrom_succ, bytesFrom_write p m i n n b le_rfl hn, Memory.read_write, if_pos rfl]

/-- The slot PUSH writes lies the count after the read index. -/
theorem slotOf_write (s : State) (h : configurationRefusal s.params = none) (hw : s.w < indexModulus s.params)
    (hr : s.r < indexModulus s.params) : slotOf s.params s.w = slotOf s.params (s.r + availCount s) := by
  rw [← slotOf_mod _ (s.r + availCount s) h, availCount, add_availOf _ _ _ hw hr]

end Sys2Proof.Machine
end

