-- ==== Sys2Proof/Laws/PerInstr.lean ====
section
/-! SUPPORT. Statements made for each instruction: its encoding has the mask and match of its opcode-table row
(30_encoding.md R71). -/

namespace Sys2Proof.Laws

/-- The mask and match of an operation's row in spec/opcode_table.json, written out. -/
def tableMaskMatch : Instr → Command × Command
  | .push _ => (0xFF00#16, 0x1000#16)
  | .pop => (0xFFFF#16, 0x2000#16)
  | .avail => (0xFFFF#16, 0x3000#16)
  | .setcfg _ _ => (0xFE00#16, 0x4000#16)
  | .loadpos _ _ => (0xFF80#16, 0x5000#16)
  | .showOut => (0xFFFF#16, 0x6000#16)
  | .shift _ => (0xFF00#16, 0x7000#16)
  | .latch => (0xFFFF#16, 0x8000#16)

/-- The encoding of an operation matches its table row. -/
def EncodingMatchesRow.Statement (i : Instr) : Prop := encode i &&& (tableMaskMatch i).1 = (tableMaskMatch i).2

theorem EncodingMatchesRow.push (data : Byte) : EncodingMatchesRow.Statement (.push data) := by
  revert data; unfold EncodingMatchesRow.Statement; decide
theorem EncodingMatchesRow.pop : EncodingMatchesRow.Statement .pop := by
  unfold EncodingMatchesRow.Statement; decide
theorem EncodingMatchesRow.avail : EncodingMatchesRow.Statement .avail := by
  unfold EncodingMatchesRow.Statement; decide
theorem EncodingMatchesRow.setcfg (en : Byte) (pol : BitVec 1) : EncodingMatchesRow.Statement (.setcfg en pol) := by
  revert en pol; unfold EncodingMatchesRow.Statement; decide
theorem EncodingMatchesRow.loadpos (pos : BitVec 3) (sym : BitVec 4) :
    EncodingMatchesRow.Statement (.loadpos pos sym) := by
  revert pos sym; unfold EncodingMatchesRow.Statement; decide
theorem EncodingMatchesRow.showOut : EncodingMatchesRow.Statement .showOut := by
  unfold EncodingMatchesRow.Statement; decide
theorem EncodingMatchesRow.shift (data : Byte) : EncodingMatchesRow.Statement (.shift data) := by
  revert data; unfold EncodingMatchesRow.Statement; decide
theorem EncodingMatchesRow.latch : EncodingMatchesRow.Statement .latch := by
  unfold EncodingMatchesRow.Statement; decide

end Sys2Proof.Laws
end

