-- ==== Sys2Proof/Tests/Slice0.lean ====
section
/-! SUPPORT. Tests on small states, their values taken from 95_test_vectors.md and 30_encoding.md, and a witness for the
hypotheses of every obligation that has some. -/

namespace Sys2Proof.Tests

open Sys2Proof Sys2Proof.Machine

/-! ## Small states -/

/-- The parameters of 95_test_vectors.md: `N = 4`, `IDX_W = 16`, `LDOT_BIT = 9`. -/
def four (atomicOps : Bool) : Params :=
  { logN := 2, idxW := 16, atomicOps := atomicOps, leftDot := .bit9, enableReset := 0xFF#8, polReset := 0#1,
    base := none, tornIndex := false, reordered := false }

/-- The reset state of those parameters, every draw 0. -/
def start : State := State.resetWith (four true) Draws.zero

/-- A ring of four slots. -/
def ring (atomicOps : Bool) (w r : Nat) (a b c d : Byte) : State :=
  { start with
    params := four atomicOps, w := w, r := r, buf := drawnSlots 4 fun i => [a, b, c, d].getD i 0x00#8 }

/-- The full ring of V6, V7 and M1. -/
def full (atomicOps : Bool) : State := ring atomicOps 4 0 0x31#8 0x32#8 0x33#8 0x34#8

/-- The ring of V5 and M6, which holds two bytes. -/
def two (atomicOps : Bool) : State := ring atomicOps 2 0 0x31#8 0x32#8 0x00#8 0x00#8

/-- An empty ring past its start. -/
def drained (atomicOps : Bool) : State := ring atomicOps 2 2 0x31#8 0x32#8 0x00#8 0x00#8

def nextOf (o : Host.Outcome State Fault Refusal) : Option State :=
  match o with
  | .next s => some s
  | .fault _ => none
  | .refused _ => none

def isRefused (o : Host.Outcome State Fault Refusal) (why : Refusal) : Bool :=
  match o with
  | .next _ => false
  | .fault _ => false
  | .refused x => x == why

def slots (s : State) : List Byte := (List.range 4).map (Memory.read s.buf)

def ringOf (o : Host.Outcome State Fault Refusal) : Option (Nat × Nat × List Byte × List Result) :=
  (nextOf o).map fun s => (s.w, s.r, slots s, s.results)

/-! ## Well-formed terms -/

theorem test_wellFormed_reserved_symbols :
    ([0xC#4, 0xD#4, 0xE#4].map fun y => (Instr.loadpos 0#3 y).wellFormed) = [false, false, false] := by decide
theorem test_wellFormed_symbols :
    ([0x0#4, 0x9#4, 0xA#4, 0xB#4, 0xF#4].map fun y => (Instr.loadpos 7#3 y).wellFormed) =
      [true, true, true, true, true] := by decide
theorem test_wellFormed_time_negative : (Pseudo.time (-1) 0 0).wellFormed = false := by decide
theorem test_wellFormed_time_hundred : (Pseudo.time 0 100 0).wellFormed = false := by decide
theorem test_wellFormed_digits_ten : (Pseudo.digits #v[1, 2, 3, 4, 5, 6, 7, 10]).wellFormed = false := by decide
theorem test_wellFormed_digits : (Pseudo.digits #v[9, 8, 7, 6, 5, 4, 3, 2]).wellFormed = true := by decide

/-! ## Decoding, with words written out from 30_encoding.md R71 -/

theorem test_decode_push : decode 0b0001_0000_0100_0001#16 .producer = .ok (.push 0x41#8) := by decide
theorem test_decode_pop : decode 0b0010_0000_0000_0000#16 .foreground = .ok .pop := by decide
theorem test_decode_avail : decode 0b0011_0000_0000_0000#16 .foreground = .ok .avail := by decide
theorem test_decode_setcfg : decode 0b0100_0001_0000_1111#16 .foreground = .ok (.setcfg 0x0F#8 1#1) := by decide
theorem test_decode_loadpos : decode 0b0101_0000_0111_1011#16 .foreground = .ok (.loadpos 7#3 0xB#4) := by decide
theorem test_decode_show : decode 0b0110_0000_0000_0000#16 .foreground = .ok .showOut := by decide
theorem test_decode_shift : decode 0b0111_0000_1000_0001#16 .foreground = .ok (.shift 0x81#8) := by decide
theorem test_decode_latch : decode 0b1000_0000_0000_0000#16 .foreground = .ok .latch := by decide
/-- V20 to V22. -/
theorem test_decode_reserved_opcode :
    ([0x0000#16, 0x9000#16, 0xF123#16].map fun c => decode c .foreground) =
      [.error .reservedOpcode, .error .reservedOpcode, .error .reservedOpcode] := by decide
/-- V26 to V28, V30 and V34: the fields are checked before the port. -/
theorem test_decode_reserved_field :
    ([0x2001#16, 0x4200#16, 0x5080#16, 0x6001#16, 0x7100#16, 0x8800#16, 0x1F41#16].map fun c =>
      decode c .foreground == .error .reservedField).all id = true := by decide
/-- V23, V24 and V25. -/
theorem test_decode_ports :
    decode 0x1100#16 .producer = .error .reservedField ∧ decode 0x1041#16 .foreground = .error .wrongPort ∧
      decode 0x2000#16 .producer = .error .wrongPort := by decide
/-- V29. -/
theorem test_decode_reserved_symbol :
    ([0x500C#16, 0x500D#16, 0x500E#16].map fun c => decode c .foreground) =
      [.error .reservedSymbol, .error .reservedSymbol, .error .reservedSymbol] := by decide

/-! ## The first step after reset, for a word of each row -/

theorem test_first_step_completes :
    [0x1041, 0x2000, 0x3000, 0x410F, 0x502A, 0x6000, 0x7001, 0x8000].all
      (fun w => (nextOf (step (State.reset.withFetchWord 16 w))).isSome) = true := by decide
theorem test_table_word : decodeTableWord 16 0x507B = some (.loadpos 7#3 0xB#4) := by decide
theorem test_table_word_refused : decodeTableWord 16 0x500C = none := by decide

/-! ## The ring -/

/-- V7: the oldest byte goes, r moves on. -/
theorem test_push_full :
    ringOf (exec (.push 0x35#8) (full true)) = some (5, 1, [0x35#8, 0x32#8, 0x33#8, 0x34#8], []) := by decide
/-- V12: both indices wrap modulo `2^16`. -/
theorem test_push_wraps :
    (ringOf (exec (.push 0x50#8) (ring true 0xFFFF 0xFFFB 0xA1#8 0xA2#8 0xA3#8 0xA4#8))) =
      some (0x0000, 0xFFFC, [0xA1#8, 0xA2#8, 0xA3#8, 0x50#8], []) := by decide
/-- V1: an empty ring. -/
theorem test_pop_empty : ringOf (exec .pop start) = some (0, 0, [0x00#8, 0x00#8, 0x00#8, 0x00#8], [.pop 0x100#9]) := by
  decide
/-- The first POP of V9. -/
theorem test_pop_oldest :
    ringOf (exec .pop (ring true 6 2 0x35#8 0x36#8 0x33#8 0x34#8)) =
      some (6, 3, [0x35#8, 0x36#8, 0x33#8, 0x34#8], [.pop 0x033#9]) := by decide
/-- V6. -/
theorem test_avail_full : (nextOf (exec .avail (full true))).map State.results = some [.avail 4] := by decide
/-- S4: the count across the wrap. -/
theorem test_avail_wraps :
    (nextOf (exec .avail (ring true 0x0001 0xFFFE 0xA3#8 0x00#8 0xA1#8 0xA2#8))).map State.results = some [.avail 3] := by
  decide
/-- M4: P3 puts r at w - N + 1. -/
theorem test_push_steps_repair :
    ringOf (exec (.push 0x37#8) (ring false 6 1 0x35#8 0x36#8 0x33#8 0x34#8)) =
      some (7, 3, [0x35#8, 0x36#8, 0x37#8, 0x34#8], []) := by decide
/-- M1: the read at C4 after a PUSH inside the POP. -/
theorem test_pop_race_read :
    (nextOf (microStep (.popC4 0) (ring false 5 1 0x35#8 0x32#8 0x33#8 0x34#8))).map State.inFlight =
      some (some (.popC5 0 0x35#8)) := by decide

/-! ## The encoder -/

/-- V47. -/
theorem test_setcfg : (nextOf (exec (.setcfg 0x0F#8 1#1) start)).map State.cfg = some 0x10F#9 := by decide
/-- V48. -/
theorem test_loadpos_dot :
    (nextOf (exec (.loadpos 2#3 0xA#4) start)).map (fun s => s.dcode.toList) =
      some [0x000#16, 0x000#16, 0x200#16, 0x000#16, 0x000#16, 0x000#16, 0x000#16, 0x000#16] := by decide
/-- V29: the refusal sets the mark. -/
theorem test_loadpos_reserved :
    (nextOf (exec (.loadpos 2#3 0xC#4) start)).map (fun s => (s.refused, s.dcode == start.dcode)) = some (true, true) := by
  decide
/-- V40 and V41, active-low. -/
theorem test_final_active_low :
    ((List.finRange 10).map fun d => finalCode
      { start with cfg := 0x1FF#9, dcode := eachOfEight fun _ => codeword (four true) (.digit d) } 3) =
      [0x7FF#16, 0xFFE#16, 0xFFD#16, 0xFFB#16, 0xFF7#16, 0xFEF#16, 0xFDF#16, 0xFBF#16, 0xF7F#16, 0xEFF#16] := by decide

/-! ## The driver -/

/-- The position registers of D1, 12.35.19. -/
def clock : State :=
  { start with dcode := #v[0x001#16, 0x002#16, 0x200#16, 0x004#16, 0x010#16, 0x200#16, 0x001#16, 0x100#16] }

/-- D1: the twelve operands. -/
theorem test_show_operands :
    showOperands clock = [0x00#8, 0x00#8, 0x24#8, 0x01#8, 0x00#8, 0x00#8, 0x00#8, 0x08#8, 0x00#8, 0x10#8, 0x40#8, 0x82#8] := by
  decide
/-- D1: the outputs by line, and the last data lines. -/
theorem test_show_outputs :
    (nextOf (exec .showOut clock)).map (fun s => (s.latch.toList, s.dl)) =
      some ([0x100#12, 0x001#12, 0x200#12, 0x010#12, 0x004#12, 0x200#12, 0x002#12, 0x001#12], 0x82#8) := by decide
/-- V62: bit 11 is dropped. -/
theorem test_shift_drops :
    (nextOf (exec (.shift 0x00#8) { start with chain := eachOfEight fun _ => 0xFFF#12 })).map (fun s => s.chain.toList) =
      some (List.replicate 8 0xFFE#12) := by decide
/-- V60: line 0 alone takes in a 1. -/
theorem test_shift_line :
    (nextOf (exec (.shift 0x01#8) start)).map (fun s => (s.chain.toList, s.dl)) =
      some (0x001#12 :: List.replicate 7 0x000#12, 0x01#8) := by decide
/-- V63. -/
theorem test_latch :
    (nextOf (exec .latch { start with chain := eachOfEight fun _ => 0x800#12 })).map (fun s => s.latch.toList) =
      some (List.replicate 8 0x800#12) := by decide

/-! ## The display command surface and the assembler -/

def wordsOf (p : Pseudo) : Option (List Command) := ((expand p).toOption).map fun is => is.map encode

/-- D16: zero padding. -/
theorem test_render_time :
    wordsOf (.time 7 5 0) =
      some [0x5000#16, 0x5017#16, 0x502A#16, 0x5030#16, 0x5045#16, 0x505A#16, 0x5060#16, 0x5070#16, 0x6000#16] := by decide
/-- D5: a requested sign, and blanks after the text. -/
theorem test_render_text_sign :
    wordsOf (.text [0x2D#8, 0x30#8, 0x2E#8, 0x35#8] true) =
      some [0x500B#16, 0x5010#16, 0x502A#16, 0x5035#16, 0x504F#16, 0x505F#16, 0x506F#16, 0x507F#16, 0x6000#16] := by decide
/-- D12: the text ends at 0x00. -/
theorem test_render_text_ends :
    wordsOf (.text [0x31#8, 0x32#8, 0x00#8, 0x33#8, 0x34#8] false) =
      some [0x5001#16, 0x5012#16, 0x502F#16, 0x503F#16, 0x504F#16, 0x505F#16, 0x506F#16, 0x507F#16, 0x6000#16] := by decide
/-- D13. -/
theorem test_render_digits :
    wordsOf (.digits #v[9, 8, 7, 6, 5, 4, 3, 2]) =
      some [0x5009#16, 0x5018#16, 0x5027#16, 0x5036#16, 0x5045#16, 0x5054#16, 0x5063#16, 0x5072#16, 0x6000#16] := by decide
/-- D14 and D15. -/
theorem test_render_refused :
    expand (.time (-1) 0 0) = .error .operandRange ∧
      expand (.digits #v[1, 2, 3, 4, 5, 6, 7, 10]) = .error .operandRange := by decide
/-- `PUSH 0x41 ; a comment` (30_encoding.md R82). -/
theorem test_assemble_push :
    assembleLine ['P', 'U', 'S', 'H', ' ', '0', 'x', '4', '1', ' ', ';', ' ', 'a'] = some (some (.command 0x1041#16)) := by
  decide
/-- `LOADPOS 2, DOT` is V48. -/
theorem test_assemble_loadpos :
    assembleLine ['L', 'O', 'A', 'D', 'P', 'O', 'S', ' ', '2', ',', ' ', 'D', 'O', 'T'] =
      some (some (.command 0x502A#16)) := by decide
/-- V33 written out. -/
theorem test_written_loadpos :
    writtenLine (.loadpos 7#3 0xB#4) = some ['L', 'O', 'A', 'D', 'P', 'O', 'S', ' ', '7', ',', ' ', 'S', 'I', 'G', 'N'] := by
  decide
/-- `PUSH 256` is out of range. -/
theorem test_assemble_out_of_range : assembleLine ['P', 'U', 'S', 'H', ' ', '2', '5', '6'] = none := by decide

/-! ## Witnesses: a concrete state and operands that meet the hypotheses of each obligation -/

/-- A ring of these parameters meets the invariant when its indices and its count do. -/
theorem ring_invariant (atomicOps : Bool) (w r : Nat) (a b c d : Byte) (hw : w < 65536) (hr : r < 65536)
    (hc : availOf (four atomicOps) w r ≤ 4) : Invariant (ring atomicOps w r a b c d) where
  configured := rfl
  writeIndex := hw
  readIndex := hr
  canonical := drawnSlots_wf 4 fun i => [a, b, c, d].getD i 0x00#8
  slots := fun x hx => ((mem_drawnSlots 4 (fun i => [a, b, c, d].getD i 0x00#8) x).1 hx).1
  ringBound := fun _ => hc
  indivisible := fun _ => rfl
  locals := fun m h => (by cases h)
  displayCode := fun p => ⟨.blank, by fin_cases p <;> rfl⟩
  clockReleased := rfl
  latchReleased := rfl

theorem full_invariant (atomicOps : Bool) : Invariant (full atomicOps) :=
  ring_invariant atomicOps 4 0 _ _ _ _ (by decide) (by decide) (by cases atomicOps <;> decide)

theorem two_invariant (atomicOps : Bool) : Invariant (two atomicOps) :=
  ring_invariant atomicOps 2 0 _ _ _ _ (by decide) (by decide) (by cases atomicOps <;> decide)

theorem drained_invariant (atomicOps : Bool) : Invariant (drained atomicOps) :=
  ring_invariant atomicOps 2 2 _ _ _ _ (by decide) (by decide) (by cases atomicOps <;> decide)

theorem witness_DecodeOfEncode : (Instr.loadpos 7#3 0xB#4).wellFormed = true := by decide
theorem witness_EncodeOfDecode : decode 0x507B#16 .foreground = .ok (.loadpos 7#3 0xB#4) := by decide
/-- A word at each end of each clause: opcodes 0, 9 and 15; a must-be-zero bit of opcodes 1 and 8; both wrong ports; the
reserved symbols 12 and 14; and the symbols 11 and 15 beside them. -/
theorem witness_DecodeFollowsTheOrder :
    (0x0FFF#16).toNat / 4096 = 0 ∧ (0x9000#16).toNat / 4096 = 9 ∧ (0xFFFF#16).toNat / 4096 = 15 ∧
    (0x1100#16 &&& 0x0F00#16) ≠ 0#16 ∧ (0x8001#16 &&& 0x0FFF#16) ≠ 0#16 ∧
    ((0x10FF#16 &&& 0x0F00#16) = 0#16 ∧ Port.foreground ≠ .producer) ∧
    ((0x8000#16 &&& 0x0FFF#16) = 0#16 ∧ Port.producer ≠ .foreground) ∧
    ((0x507C#16 &&& 0x0F80#16) = 0#16 ∧ (0x507C#16).toNat % 16 = 12) ∧
    ((0x500E#16 &&& 0x0F80#16) = 0#16 ∧ (0x500E#16).toNat % 16 = 14) ∧
    ((0x500B#16).toNat % 16 = 11 ∧ (0x507F#16).toNat % 16 = 15) := by decide
/-- An operation, a line, each bound passed by one, a string in the place of a symbol, and the words 10 and DOTS there. -/
theorem witness_AssemblerSpellsEveryOperation :
    assembleLine ['P', 'O', 'P'] = some (some (.command 0x2000#16)) ∧
    ((∀ v, Operand.str [0x31#8] = .num v → v < 0 ∨ 9 < v) ∧ ∀ n, Operand.str [0x31#8] ≠ .name n) ∧
    ((∀ c ∈ ['D', 'O', 'T', 'S'], c ≠ ';' ∧ c ≠ ',' ∧ c ≠ '"' ∧ isBlankChar c = false) ∧
      numberOf ['D', 'O', 'T', 'S'] = none ∧ ['D', 'O', 'T', 'S'] ≠ ['D', 'O', 'T'] ∧
      ['D', 'O', 'T', 'S'] ≠ ['S', 'I', 'G', 'N'] ∧ ['D', 'O', 'T', 'S'] ≠ ['B', 'L', 'A', 'N', 'K']) ∧
    (numberOf ['1', '0'] = some 10 ∧ ((10 : Int) < 0 ∨ 9 < (10 : Int))) ∧
    (Instr.loadpos 7#3 0xF#4).wellFormed = true ∧ ((-1 : Int) < 0 ∨ 255 < (-1 : Int)) ∧ ((256 : Int) < 0 ∨ 255 < (256 : Int)) ∧
      ((2 : Int) < 0 ∨ 1 < (2 : Int)) ∧ ((8 : Int) < 0 ∨ 7 < (8 : Int)) ∧ ((10 : Int) < 0 ∨ 9 < (10 : Int)) :=
  ⟨by decide, ⟨fun v h => (by cases h), fun n h => (by cases h)⟩,
    ⟨by simp [isBlankChar], by decide, by decide, by decide, by decide⟩, by decide, by decide⟩

def withTurn (t : Turn) (s : State) : State := s.setTurns [t]

def foregroundAt (req : Request) (s : State) : State := (s.setForegroundPort [req]).setTurns [.foreground]

theorem witness_StepRunsTheIssuedCommand :
    (let s := (start.setProducerPort [0x1041#16]).setTurns [.producer]
     configurationRefusal s.params = none ∧ s.turns = .producer :: [] ∧ s.producerPort = 0x1041#16 :: [] ∧
       decode 0x1041#16 .producer = .ok (.push 0x41#8) ∧ decode 0x2000#16 .producer = .error .wrongPort) ∧
    (let s := foregroundAt (.command 0x6000#16) start
     configurationRefusal s.params = none ∧ s.turns = .foreground :: [] ∧ s.inFlight = none ∧
       s.foregroundPort = .command 0x6000#16 :: [] ∧ decode 0x6000#16 .foreground = .ok .showOut ∧
       decode 0x500C#16 .foreground = .error .reservedSymbol) ∧
    (let s := withTurn .foreground ((full false).setInFlight (some (.popC2 0)))
     configurationRefusal s.params = none ∧ s.turns = .foreground :: [] ∧ s.inFlight = some (.popC2 0)) := by decide
theorem witness_PlacedWordRunsNext :
    configurationRefusal start.params = none ∧ start.inFlight = none ∧
      decodeTableWord 16 0x1041 = some (.push 0x41#8) ∧ decodeTableWord 16 0x502A = some (.loadpos 2#3 0xA#4) := by decide
theorem witness_ReceiveInterruptIsOnePush : configurationRefusal (full false).params = none := by decide
theorem witness_EveryOperationCompletes : configurationRefusal start.params = none := by decide
/-- One configuration past each bound, and one at both bounds at once, with and without torn accesses. -/
theorem witness_IllegalConfigurationIsRefused :
    ({ four true with logN := 0 } : Params).logN < 1 ∧
    ({ four true with logN := 16 } : Params).idxW < ({ four true with logN := 16 } : Params).logN + 1 ∧
    ({ four true with idxW := 15 } : Params).idxW < 16 ∧
    (let p : Params := { four true with logN := 15, tornIndex := true }
     1 ≤ p.logN ∧ p.logN + 1 ≤ p.idxW ∧ 16 ≤ p.idxW ∧ p.tornIndex = true) ∧
    (let p : Params := { four true with logN := 15 }
     1 ≤ p.logN ∧ p.logN + 1 ≤ p.idxW ∧ 16 ≤ p.idxW ∧ p.tornIndex = false) := by decide
theorem test_torn_platform_refused :
    isRefused (step { start with params := { four true with tornIndex := true } }) .tornIndexPlatform = true := by decide
theorem witness_ParametersNeverChange : ∃ t, step (withTurn .restart start) = .next t := ⟨_, rfl⟩
theorem witness_RefusalSetsOnlyTheMark :
    decode 0x9000#16 .foreground = .error .reservedOpcode ∧ expand (.time 0 0 100) = .error .operandRange := by decide
/-- The mark cleared by a restart, kept by a POP, and set by a refused word on each port and by a refused pseudo-operation. -/
theorem witness_RefusalMarkLastsUntilReset :
    (withTurn .restart (refuse start)).turns.head? = some .restart ∧
    (nextOf (step (withTurn .restart (refuse start)))).map State.refused = some false ∧
    (nextOf (step (foregroundAt (.command 0x2000#16) (refuse start)))).map State.refused = some true ∧
    (nextOf (step ((start.setProducerPort [0x2000#16]).setTurns [.producer]))).map State.refused = some true ∧
    (nextOf (step (foregroundAt (.command 0x500C#16) start))).map State.refused = some true ∧
    (nextOf (step (foregroundAt (.pseudo (.time (-1) 0 0)) start))).map State.refused = some true := by decide
theorem witness_ResetValues :
    configurationRefusal start.params = none ∧ (withTurn .restart start).turns.head? = some .restart ∧
      3 < capacity (four true) := by decide
theorem witness_ResetHasTheInvariant : configurationRefusal (four false) = none := by decide
theorem witness_StepKeepsTheInvariant : Invariant (full true) ∧ ∃ t, step (full true) = .next t :=
  ⟨full_invariant true, _, rfl⟩
/-- Both cases of r: a full ring and a ring with room. -/
theorem witness_PushStoresTheByte :
    ((full true).params.atomicOps = true ∧ availCount (full true) = 4) ∧
      ((two true).params.atomicOps = true ∧ availCount (two true) = 2) := by decide
theorem witness_PushSetsTheStatus :
    Invariant (full true) ∧ Invariant (ring true 3 0 0x31#8 0x32#8 0x33#8 0x00#8) ∧
      availCount (ring true 3 0 0x31#8 0x32#8 0x33#8 0x00#8) = capacity (four true) - 1 :=
  ⟨full_invariant true, ring_invariant true 3 0 _ _ _ _ (by decide) (by decide) (by decide), by decide⟩
theorem witness_PopOfAnEmptyRing : (drained true).params.atomicOps = true ∧ (drained true).w = (drained true).r := by decide
theorem witness_PopTakesTheOldestByte : (full true).params.atomicOps = true ∧ (full true).w ≠ (full true).r := by decide
theorem witness_AvailReturnsTheCount : (full true).params.atomicOps = true := by decide
theorem witness_EveryOperationKeepsTheBound :
    (Invariant (full true) ∧ availCount (full true) = capacity (full true).params) ∧
      (Invariant (two true) ∧ availCount (two true) < capacity (two true).params) ∧
      isPush .avail = false ∧ Instr.avail ≠ .pop :=
  ⟨⟨full_invariant true, by decide⟩, ⟨two_invariant true, by decide⟩, by decide, by decide⟩
theorem witness_PushAddsToTheQueue :
    Invariant (full true) ∧ (full true).params.atomicOps = true ∧ held (full true) = [0x31#8, 0x32#8, 0x33#8, 0x34#8] :=
  ⟨full_invariant true, by decide, by decide⟩
theorem witness_PopTakesFromTheQueue :
    (Invariant (drained true) ∧ held (drained true) = []) ∧ (Invariant (two true) ∧ held (two true) = [0x31#8, 0x32#8]) ∧
      (Invariant (ring true 2 1 0x31#8 0x32#8 0x00#8 0x00#8) ∧ availCount (ring true 2 1 0x31#8 0x32#8 0x00#8 0x00#8) = 1) :=
  ⟨⟨drained_invariant true, by decide⟩, ⟨two_invariant true, by decide⟩,
    ring_invariant true 2 1 _ _ _ _ (by decide) (by decide) (by decide), by decide⟩
theorem witness_OverrunKeepsTheNewestBytes : Invariant (two true) ∧ (two true).params.atomicOps = true :=
  ⟨two_invariant true, by decide⟩
/-- A sequence with no overrun, and one with an overrun. -/
theorem witness_BytesLeaveInTheOrderTheyCame :
    Invariant (full true) ∧ (full true).params.atomicOps = true ∧ overruns [.pop, .push 0x35#8] (full true) = 0 ∧
      overruns [.push 0x35#8, .pop] (full true) = 1 :=
  ⟨full_invariant true, by decide, by decide, by decide⟩
theorem witness_CapacityBoundsTheLoss :
    Invariant (drained true) ∧ (drained true).params.atomicOps = true ∧ (drained true).w = (drained true).r ∧
      (pushedBytes [Instr.push 1#8, Instr.push 2#8, Instr.push 3#8, Instr.push 4#8]).length ≤ capacity (drained true).params ∧
      capacity (drained true).params < [1#8, 2#8, 3#8, 4#8, 5#8].length :=
  ⟨drained_invariant true, by decide, by decide, by decide, by decide⟩
theorem witness_SlotDrawsAreNeverReturned :
    configurationRefusal (four true) = none ∧ (four true).atomicOps = true ∧
      ∃ e : Draws, e.chain = Draws.zero.chain ∧ e.latch = Draws.zero.latch ∧ e.dl = Draws.zero.dl ∧ e.slot 0 ≠ Draws.zero.slot 0 :=
  ⟨by decide, by decide, { Draws.zero with slot := fun _ => 0x55#8 }, rfl, rfl, rfl, by decide⟩
theorem witness_InterruptContextOnlyPushes : decode 0x10FF#16 .producer = .ok (.push 0xFF#8) := by decide
/-- A count above `N`, a count of `N` and a count below it. -/
theorem witness_PushByMicroSteps :
    configurationRefusal (four false) = none ∧ (four false).atomicOps = false ∧
      4 < availCount (ring false 6 1 0x35#8 0x36#8 0x33#8 0x34#8) ∧ availCount (full false) = 4 ∧
      availCount (two false) < 4 := by decide
theorem witness_MicroStepsFollowTheListing :
    (full false).params.atomicOps = false ∧ (4 : Nat) ≠ 0 ∧ (full false).params.reordered = false ∧
      ({ full false with params := { four false with reordered := true } } : State).params.reordered = true := by decide
theorem witness_UninterruptedMicroStepsAreAtomic :
    Invariant (full false) ∧ (full false).params.atomicOps = false ∧ (full false).params.reordered = false ∧
      (full false).inFlight = none ∧ availCount (full false) ≤ capacity (full false).params :=
  ⟨full_invariant false, by decide, by decide, by decide, by decide⟩
theorem witness_RaceReturnsTheNewestByte :
    Invariant (full false) ∧ (full false).params.atomicOps = false ∧ (full false).params.reordered = false ∧
      (full false).inFlight = none ∧ availCount (full false) = capacity (full false).params :=
  ⟨full_invariant false, by decide, by decide, by decide, by decide⟩
/-- A ring with room, and an empty one. -/
theorem witness_RoomyRingRacesAreAtomic :
    (Invariant (two false) ∧ availCount (two false) < capacity (two false).params) ∧
      (Invariant (drained false) ∧ availCount (drained false) < capacity (drained false).params) ∧
      (two false).params.atomicOps = false ∧ (two false).params.reordered = false ∧ (two false).inFlight = none :=
  ⟨⟨two_invariant false, by decide⟩, ⟨drained_invariant false, by decide⟩, by decide, by decide, by decide⟩
theorem witness_RaceMovesTheReadIndexBack :
    Invariant (full false) ∧ (full false).params.atomicOps = false ∧ (full false).params.reordered = false ∧
      (full false).inFlight = none ∧ availCount (full false) = capacity (full false).params ∧
      2 ≤ [0x35#8, 0x36#8].length ∧ capacity (full false).params + [0x35#8, 0x36#8].length < indexModulus (full false).params :=
  ⟨full_invariant false, by decide, by decide, by decide, by decide, by decide, by decide⟩
theorem witness_LoadposLoadsTheCodeword :
    (0xB#4 ≠ 0xC#4 ∧ 0xB#4 ≠ 0xD#4 ∧ 0xB#4 ≠ 0xE#4) ∧ (0xF#4 ≠ 0xC#4 ∧ 0xF#4 ≠ 0xD#4 ∧ 0xF#4 ≠ 0xE#4) := by decide
theorem witness_CodewordTable :
    codeword (four true) .sign = codeword (four true) .sign ∧ 12 ≤ 12 ∧
      (codeword (four true) .sign).getLsbD (rightDotBit (four true)) = true := by decide
theorem witness_PolarityInvertsTheLowTwelveBits :
    Invariant (full true) ∧ (full true).dcode[(7 : Fin 8)] = codeword (full true).params .blank :=
  ⟨full_invariant true, by decide⟩
theorem witness_DisabledPositionsAreBlank :
    ({ clock with cfg := 0x10E#9 } : State).cfg.getLsbD 0 = false ∧
      ({ clock with cfg := 0x101#9 } : State).cfg.getLsbD 0 = true ∧
      clock.dcode[(0 : Fin 8)] = codeword clock.params (.digit 1) := by decide
theorem witness_ShowPresentsTheFinalCodes :
    (7 : Fin 8).val = 7 - (0 : Fin 8).val ∧ (0 : Fin 8).val = 7 - (7 : Fin 8).val := by decide
theorem witness_ShowIsTwelveShiftsAndOneLatch :
    (showOperands clock)[0]? = some 0x00#8 ∧ (showOperands clock)[11]? = some 0x82#8 ∧
      (7 : Fin 8).val = 7 - (0 : Fin 8).val := by decide
theorem witness_TwelveShiftsReplaceTheChains :
    (List.replicate 12 0xFF#8).length = 12 ∧ (List.replicate 12 0xFF#8)[11]? = some 0xFF#8 := by decide
theorem witness_PartialLatchMixesOldAndNew : (List.replicate 11 0xFF#8).length < 12 ∧ ([] : List Byte).length < 12 := by
  decide
theorem witness_OutputsChangeOnlyAtLatch :
    (Instr.shift 0xFF#8 ≠ .latch ∧ Instr.shift 0xFF#8 ≠ .showOut) ∧
      ∃ t, step (foregroundAt (.command 0x8000#16) { start with chain := eachOfEight fun _ => 0x800#12 }) = .next t ∧
        t.latch ≠ start.latch :=
  ⟨by decide, _, rfl, by decide⟩
theorem witness_PushCommutesWithDisplayOperations :
    displayOperation .showOut = true ∧ displayOperation (.loadpos 0#3 0xC#4) = true := by decide
theorem witness_PushesInsideShowChangeNothing :
    ((Instr.push 0x41#8 :: showSequence clock ++ [Instr.push 0x42#8]).filter fun i => !isPush i) = showSequence clock := by decide
theorem witness_ExpansionsAreEightLoadsAndAShow :
    (expand (.time 99 0 99)).toOption.isSome = true ∧ (expand (.text [] true)).toOption.isSome = true := by decide
/-- The bytes on each side of the digits. -/
theorem witness_CharacterMap :
    (0x2F#8).toNat < 0x30 ∧ 0x2F#8 ≠ 0x2E#8 ∧ 0x39 < (0x3A#8).toNat ∧ 0x3A#8 ≠ 0x2E#8 := by decide
theorem witness_DecimalFormIsText :
    (7 < 8 ∧ ([0x31#8, 0x2E#8, 0x32#8, 0x2E#8, 0x33#8, 0x34#8, 0x35#8, 0x2E#8] : List Byte)[7]? = some 0x2E#8) ∧
      (∀ c ∈ ([0x31#8, 0x2E#8, 0x32#8, 0x2E#8, 0x33#8, 0x34#8, 0x35#8, 0x2E#8] : List Byte), c ≠ 0x00#8) := by decide
theorem witness_TextTakesOnePositionAByte :
    (∀ c ∈ [0x2D#8, 0x31#8], c ≠ 0x00#8) ∧ [0x00#8, 0x33#8].head? = some 0x00#8 := by decide
theorem witness_RendersRefuseOutOfRangeOperands :
    ((-1 : Int) < 0 ∧ (99 : Int) < 100) ∧ (9 : Int) < (#v[1, 2, 3, 4, 5, 6, 7, 10] : Vector Int 8)[(7 : Fin 8)] ∧
      (∀ q : Fin 8, 0 ≤ (#v[0, 9, 0, 9, 0, 9, 0, 9] : Vector Int 8)[q] ∧ (#v[0, 9, 0, 9, 0, 9, 0, 9] : Vector Int 8)[q] ≤ 9) ∧
      (Pseudo.time 99 0 99).wellFormed = true ∧ (Pseudo.digits #v[0, 9, 0, 9, 0, 9, 0, 9]).wellFormed = true := by decide
theorem witness_RenderShowsItsSymbols : (7 : Fin 8).val = 7 - (0 : Fin 8).val := by decide
theorem witness_RenderTurnIssuesItsWords :
    (let s := foregroundAt (.pseudo (.time 12 35 19)) start
     configurationRefusal s.params = none ∧ s.turns = .foreground :: [] ∧ s.inFlight = none ∧
       s.foregroundPort = .pseudo (.time 12 35 19) :: []) ∧
    (expand (.time 12 35 19)).toOption.isSome = true ∧ expand (.time 12 35 100) = .error .operandRange := by decide

end Sys2Proof.Tests
end

section
/-! PROOFS. Decoding in the order of 30_encoding.md R81. The opcode map's rows are read with plain arithmetic on the word:
its opcode is `cmd.toNat / 4096`, and a row's mask is the opcode bits together with the must-be-zero bits of R71. -/

namespace Sys2Proof.Proofs

open Sys2Proof Sys2Proof.Machine

/-! ## The fields of a word, as arithmetic (R70, R72) -/

theorem opField_toNat (cmd : Command) : (opField cmd).toNat = cmd.toNat / 4096 := by
  have hlt := cmd.isLt
  simp only [opField, BitVec.extractLsb'_toNat, Nat.shiftRight_eq_div_pow]
  omega

theorem dataField_eq_ofNat (cmd : Command) : dataField cmd = BitVec.ofNat 8 (cmd.toNat % 256) := by
  apply BitVec.eq_of_toNat_eq
  simp [dataField]

theorem polField_eq_ofNat (cmd : Command) : polField cmd = BitVec.ofNat 1 (cmd.toNat / 256 % 2) := by
  apply BitVec.eq_of_toNat_eq
  simp [polField, Nat.shiftRight_eq_div_pow]

theorem posField_eq_ofNat (cmd : Command) : posField cmd = BitVec.ofNat 3 (cmd.toNat / 16 % 8) := by
  apply BitVec.eq_of_toNat_eq
  simp [posField, Nat.shiftRight_eq_div_pow]

theorem symField_eq_ofNat (cmd : Command) : symField cmd = BitVec.ofNat 4 (cmd.toNat % 16) := by
  apply BitVec.eq_of_toNat_eq
  simp [symField]

theorem opField_eq_iff (cmd : Command) (v : BitVec 4) : opField cmd = v ↔ cmd.toNat / 4096 = v.toNat := by
  rw [← BitVec.toNat_inj, opField_toNat]

/-- The reserved symbol codes are 12, 13 and 14 (R76). -/
theorem reservedSymbol_symField_iff (cmd : Command) :
    reservedSymbol (symField cmd) = true ↔ cmd.toNat % 16 = 12 ∨ cmd.toNat % 16 = 13 ∨ cmd.toNat % 16 = 14 := by
  have codes : ∀ v : BitVec 4, reservedSymbol v = true ↔ v.toNat = 12 ∨ v.toNat = 13 ∨ v.toNat = 14 := by decide
  have value : (symField cmd).toNat = cmd.toNat % 16 := by simp [symField]
  rw [codes, value]

/-! ## The opcode map by opcode number (R71) -/

/-- The must-be-zero bits of an assigned opcode (R71). -/
def zeroBits (op : Nat) : Command :=
  if op = 1 ∨ op = 7 then 0x0F00#16 else if op = 4 then 0x0E00#16 else if op = 5 then 0x0F80#16 else 0x0FFF#16

/-- The port of an assigned opcode (R71). -/
def ownPort (op : Nat) : Port := if op = 1 then .producer else .foreground

/-- The operation a word with an assigned opcode names, its fields as arithmetic (R71, R72). -/
def namedInstr (cmd : Command) : Instr :=
  let op := cmd.toNat / 4096
  if op = 1 then .push (BitVec.ofNat 8 (cmd.toNat % 256))
  else if op = 2 then .pop
  else if op = 3 then .avail
  else if op = 4 then .setcfg (BitVec.ofNat 8 (cmd.toNat % 256)) (BitVec.ofNat 1 (cmd.toNat / 256 % 2))
  else if op = 5 then .loadpos (BitVec.ofNat 3 (cmd.toNat / 16 % 8)) (BitVec.ofNat 4 (cmd.toNat % 16))
  else if op = 6 then .showOut
  else if op = 7 then .shift (BitVec.ofNat 8 (cmd.toNat % 256))
  else .latch

/-- Each row's mask is the opcode bits and its must-be-zero bits, and its match is the opcode alone. -/
theorem opcodeMap_row : ∀ row ∈ opcodeMap,
    row.mask = 0xF000#16 ||| zeroBits row.op.toNat ∧ row.bits = row.op.setWidth 16 <<< 12 ∧
      row.port = ownPort row.op.toNat := by decide

/-- A row is found by its own opcode. -/
theorem rowOf_eq_some {cmd : Command} {row : OpcodeRow} (h : rowOf cmd = some row) :
    row ∈ opcodeMap ∧ row.op = opField cmd := by
  refine ⟨List.mem_of_find?_eq_some h, ?_⟩
  simpa using List.find?_some h

/-- The reserved opcodes are 0 and those from 9 on (R74). -/
theorem rowOf_eq_none_iff (cmd : Command) : rowOf cmd = none ↔ cmd.toNat / 4096 = 0 ∨ 9 ≤ cmd.toNat / 4096 := by
  have codes : ∀ v : BitVec 4, (opcodeMap.find? fun row => row.op == v) = none ↔ v.toNat = 0 ∨ 9 ≤ v.toNat := by
    decide
  rw [← opField_toNat]
  exact codes (opField cmd)

theorem build_eq_namedInstr {cmd : Command} {row : OpcodeRow} (h : rowOf cmd = some row) :
    row.build cmd = namedInstr cmd := by
  obtain ⟨hmem, hop⟩ := rowOf_eq_some h
  have hnum := (opField_eq_iff cmd row.op).1 hop.symm
  simp only [opcodeMap, List.mem_cons, List.not_mem_nil, or_false] at hmem
  rcases hmem with rfl | rfl | rfl | rfl | rfl | rfl | rfl | rfl <;>
    simp [namedInstr, hnum, dataField_eq_ofNat, polField_eq_ofNat, posField_eq_ofNat, symField_eq_ofNat]

/-! ## The mask of a row and its must-be-zero bits (R73) -/

/-- The top four bits of a word are its opcode. -/
theorem and_opcodeBits (cmd : Command) : cmd &&& 0xF000#16 = (opField cmd).setWidth 16 <<< 12 := by
  ext i hi
  interval_cases i <;> simp [opField]

theorem or_eq_left_iff_of_disjoint {w : Nat} (x y : BitVec w) (h : x &&& y = 0#w) : x ||| y = x ↔ y = 0#w := by
  constructor
  · intro hor
    calc y = (x ||| y) &&& y := by ext i hi; simp +contextual
      _ = x &&& y := by rw [hor]
      _ = 0#w := h
  · rintro rfl
    simp

theorem zeroBits_disjoint (cmd : Command) (op : Nat) : (cmd &&& 0xF000#16) &&& (cmd &&& zeroBits op) = 0#16 := by
  have low : 0xF000#16 &&& zeroBits op = 0#16 := by unfold zeroBits; split_ifs <;> decide
  calc (cmd &&& 0xF000#16) &&& (cmd &&& zeroBits op)
      = cmd &&& (0xF000#16 &&& zeroBits op) := by ac_rfl
    _ = 0#16 := by rw [low]; simp

/-- A word matches its opcode's row exactly when its must-be-zero bits are zero. -/
theorem matches_row_iff {cmd : Command} {row : OpcodeRow} (h : rowOf cmd = some row) :
    cmd &&& row.mask = row.bits ↔ cmd &&& zeroBits (cmd.toNat / 4096) = 0#16 := by
  obtain ⟨hmem, hop⟩ := rowOf_eq_some h
  obtain ⟨hmask, hbits, -⟩ := opcodeMap_row row hmem
  rw [hmask, hbits, hop, opField_toNat, ← and_opcodeBits, BitVec.and_or_distrib_left]
  exact or_eq_left_iff_of_disjoint _ _ (zeroBits_disjoint cmd _)

/-! ## Decoding (R81) -/

theorem decode_of_reservedOpcode (cmd : Command) (port : Port) (h : cmd.toNat / 4096 = 0 ∨ 9 ≤ cmd.toNat / 4096) :
    decode cmd port = .error .reservedOpcode := by
  simp only [decode, (rowOf_eq_none_iff cmd).2 h]

/-- The checks an assigned opcode goes through, in order: field, port, symbol. -/
theorem decode_of_assignedOpcode (cmd : Command) (port : Port) (h1 : 1 ≤ cmd.toNat / 4096) (h8 : cmd.toNat / 4096 ≤ 8) :
    decode cmd port =
      if cmd &&& zeroBits (cmd.toNat / 4096) ≠ 0#16 then .error .reservedField
      else if port ≠ ownPort (cmd.toNat / 4096) then .error .wrongPort
      else if cmd.toNat / 4096 = 5 ∧ (cmd.toNat % 16 = 12 ∨ cmd.toNat % 16 = 13 ∨ cmd.toNat % 16 = 14) then
        .error .reservedSymbol
      else .ok (namedInstr cmd) := by
  have assigned : rowOf cmd ≠ none := fun h => by
    have := (rowOf_eq_none_iff cmd).1 h
    omega
  obtain ⟨row, hrow⟩ := Option.ne_none_iff_exists'.1 assigned
  obtain ⟨hmem, hop⟩ := rowOf_eq_some hrow
  obtain ⟨-, -, hport⟩ := opcodeMap_row row hmem
  rw [hop, opField_toNat] at hport
  have hfive : opField cmd = 0x5#4 ↔ cmd.toNat / 4096 = 5 := opField_eq_iff cmd 0x5#4
  simp only [decode, hrow, ne_eq, matches_row_iff hrow, hport, hfive, reservedSymbol_symField_iff,
    build_eq_namedInstr hrow]

section Checks

variable {cmd : Command} {port : Port} (h1 : 1 ≤ cmd.toNat / 4096) (h8 : cmd.toNat / 4096 ≤ 8)
include h1 h8

theorem decode_of_zeroBits_ne (hzeros : cmd &&& zeroBits (cmd.toNat / 4096) ≠ 0#16) :
    decode cmd port = .error .reservedField := by
  rw [decode_of_assignedOpcode cmd port h1 h8, if_pos hzeros]

theorem decode_of_port_ne (hzeros : cmd &&& zeroBits (cmd.toNat / 4096) = 0#16)
    (hport : port ≠ ownPort (cmd.toNat / 4096)) : decode cmd port = .error .wrongPort := by
  rw [decode_of_assignedOpcode cmd port h1 h8, if_neg (not_not.2 hzeros), if_pos hport]

theorem decode_of_reservedSymbol (hzeros : cmd &&& zeroBits (cmd.toNat / 4096) = 0#16)
    (hport : port = ownPort (cmd.toNat / 4096))
    (hsym : cmd.toNat / 4096 = 5 ∧ (cmd.toNat % 16 = 12 ∨ cmd.toNat % 16 = 13 ∨ cmd.toNat % 16 = 14)) :
    decode cmd port = .error .reservedSymbol := by
  rw [decode_of_assignedOpcode cmd port h1 h8, if_neg (not_not.2 hzeros), if_neg (not_not.2 hport), if_pos hsym]

theorem decode_eq_namedInstr (hzeros : cmd &&& zeroBits (cmd.toNat / 4096) = 0#16)
    (hport : port = ownPort (cmd.toNat / 4096))
    (hsym : ¬(cmd.toNat / 4096 = 5 ∧ (cmd.toNat % 16 = 12 ∨ cmd.toNat % 16 = 13 ∨ cmd.toNat % 16 = 14))) :
    decode cmd port = .ok (namedInstr cmd) := by
  rw [decode_of_assignedOpcode cmd port h1 h8, if_neg (not_not.2 hzeros), if_neg (not_not.2 hport), if_neg hsym]

end Checks

/-- Settles O3: a reserved opcode has no row, and an assigned one goes through the checks in the order of R81. -/
theorem decodeFollowsTheOrder : Obligations.DecodeFollowsTheOrder := by
  unfold Obligations.DecodeFollowsTheOrder
  intro cmd port op zeros own sym
  refine ⟨decode_of_reservedOpcode cmd port, decode_of_zeroBits_ne, decode_of_port_ne, ?symbol, decode_eq_namedInstr⟩
  case symbol =>
    intro hop hzeros hport hsym
    exact decode_of_reservedSymbol (by omega) (by omega) hzeros hport ⟨hop, hsym⟩

end Sys2Proof.Proofs
end

section
/-! PROOFS. The ring as a queue (41_ring.md R100 to R108). With ATOMIC_OPS = true a PUSH is a drop of the oldest byte, when
the ring is full, and then a store of the new one; a POP is a drop that hands the byte back. Each of the two parts has one law
for the count and one for the queue, and the statements about PUSH, POP and sequences of operations follow from these. -/

namespace Sys2Proof.Proofs

open Sys2Proof Sys2Proof.Machine

/-! ## The parts of the state that an operation leaves as they were -/

/-- The ring, and what its arithmetic depends on, are the same. -/
def KeepsRing (s t : State) : Prop := t.params = s.params ∧ t.w = s.w ∧ t.r = s.r ∧ t.buf = s.buf

theorem KeepsRing.refl (s : State) : KeepsRing s s := ⟨rfl, rfl, rfl, rfl⟩

theorem KeepsRing.trans {s t u : State} : KeepsRing s t → KeepsRing t u → KeepsRing s u
  | ⟨hp, hw, hr, hb⟩, ⟨hp', hw', hr', hb'⟩ => ⟨hp'.trans hp, hw'.trans hw, hr'.trans hr, hb'.trans hb⟩

theorem KeepsRing.availCount {s t : State} : KeepsRing s t → availCount t = availCount s
  | ⟨hp, hw, hr, _⟩ => by rw [Machine.availCount, hp, hw, hr, Machine.availCount]

theorem KeepsRing.held {s t : State} (h : KeepsRing s t) : held t = held s := by
  have hn := h.availCount
  obtain ⟨hp, -, hr, hb⟩ := h
  simp only [Machine.held, indexAfter, hn, hp, hr, hb]

theorem sameDisplay_refl (s : State) : SameDisplay s s := ⟨rfl, rfl, rfl, rfl, rfl, rfl, rfl⟩

theorem sameDisplay_trans {s t u : State} : SameDisplay s t → SameDisplay t u → SameDisplay s u
  | ⟨h1, h2, h3, h4, h5, h6, h7⟩, ⟨g1, g2, g3, g4, g5, g6, g7⟩ =>
    ⟨g1.trans h1, g2.trans h2, g3.trans h3, g4.trans h4, g5.trans h5, g6.trans h6, g7.trans h7⟩

theorem sameControl_refl (s : State) : SameControl s s := ⟨rfl, rfl, rfl, rfl, rfl, rfl, rfl⟩

theorem sameControl_trans {s t u : State} : SameControl s t → SameControl t u → SameControl s u
  | ⟨h1, h2, h3, h4, h5, h6, h7⟩, ⟨g1, g2, g3, g4, g5, g6, g7⟩ =>
    ⟨g1.trans h1, g2.trans h2, g3.trans h3, g4.trans h4, g5.trans h5, g6.trans h6, g7.trans h7⟩

/-! ## The frame of a PUSH, in both settings of ATOMIC_OPS (R101) -/

/-- The state after new values of `r`, `buf` and `w`, all that a PUSH writes. -/
def withRing (s : State) (r : Nat) (buf : Memory) (w : Nat) : State := ((s.setR r).setBuf buf).setW w

theorem dropOldestIfFull_eq_setR (s : State) : ∃ r, dropOldestIfFull s = s.setR r := by
  unfold dropOldestIfFull
  split
  · exact ⟨_, rfl⟩
  · exact ⟨s.r, rfl⟩

theorem pushRepair_eq_setR (wl rl : Nat) (s : State) : ∃ r, pushRepair wl rl s = s.setR r := by
  unfold pushRepair
  split
  · exact ⟨_, rfl⟩
  · exact ⟨s.r, rfl⟩

theorem exec_push_eq_withRing (b : Byte) (s : State) : ∃ r buf w, exec (.push b) s = .next (withRing s r buf w) := by
  cases hatomic : s.params.atomicOps with
  | true =>
    obtain ⟨r, hr⟩ := dropOldestIfFull_eq_setR s
    exact ⟨r, _, _, by rw [exec, execPush, if_pos hatomic, pushAtomic_eq, hr]; rfl⟩
  | false =>
    obtain ⟨r, hr⟩ := pushRepair_eq_setR s.w s.r s
    exact ⟨r, _, _, by rw [exec, execPush, if_neg (by simp [hatomic]), pushSteps_eq, hr]; rfl⟩

/-- A PUSH touches only `w`, `r` and `buf` (R101). -/
theorem exec_push_frame {b : Byte} {s t : State} (h : exec (.push b) s = .next t) :
    t.results = s.results ∧ SameDisplay s t ∧ SameControl s t := by
  obtain ⟨r, buf, w, heq⟩ := exec_push_eq_withRing b s
  obtain rfl : withRing s r buf w = t := Host.Outcome.next.inj (heq.symm.trans h)
  exact ⟨rfl, sameDisplay_refl s, sameControl_refl s⟩

/-- The one opcode of the producer port is PUSH's (R71, R101). -/
theorem decode_producer_eq_push {cmd : Command} {i : Instr} (h : decode cmd .producer = .ok i) : ∃ b, i = .push b := by
  by_cases hres : cmd.toNat / 4096 = 0 ∨ 9 ≤ cmd.toNat / 4096
  · simp [decode_of_reservedOpcode cmd _ hres] at h
  · rw [decode_of_assignedOpcode cmd _ (by omega) (by omega)] at h
    split_ifs at h with hzeros hport hsym
    have hone : cmd.toNat / 4096 = 1 := by simpa [ownPort] using hport
    obtain rfl : namedInstr cmd = i := Except.ok.inj h
    exact ⟨_, if_pos hone⟩

/-- Settles O29: the producer port's one opcode is PUSH's, and a PUSH is an update of `r`, `buf` and `w`. -/
theorem interruptContextOnlyPushes : Obligations.InterruptContextOnlyPushes := by
  unfold Obligations.InterruptContextOnlyPushes
  refine ⟨fun cmd i => decode_producer_eq_push, fun b s => ?_⟩
  obtain ⟨r, buf, w, h⟩ := exec_push_eq_withRing b s
  exact ⟨_, h, exec_push_frame h⟩

/-! ## The indivisible ring, and the two parts of its operations -/

/-- What the ring needs of a state for its operations to be those of a bounded queue; `Invariant` gives it. -/
structure AtomicRing (s : State) : Prop where
  configured : configurationRefusal s.params = none
  atomic : s.params.atomicOps = true
  writeIndex : s.w < indexModulus s.params
  readIndex : s.r < indexModulus s.params
  bound : availCount s ≤ capacity s.params

theorem atomicRing_of_invariant {s : State} (h : Invariant s) (hatomic : s.params.atomicOps = true) : AtomicRing s :=
  ⟨h.configured, hatomic, h.writeIndex, h.readIndex, h.ringBound hatomic⟩

theorem atomicRing_of_keepsRing {s t : State} (hs : AtomicRing s) (h : KeepsRing s t) : AtomicRing t := by
  have hn := h.availCount
  obtain ⟨hp, hw, hr, -⟩ := h
  exact ⟨hp ▸ hs.configured, hp ▸ hs.atomic, by rw [hw, hp]; exact hs.writeIndex, by rw [hr, hp]; exact hs.readIndex,
    by rw [hn, hp]; exact hs.bound⟩

theorem isFull_iff (s : State) : isFull s = true ↔ availCount s = capacity s.params := by simp [isFull]

/-- The oldest byte leaves the ring. -/
def dropOldest (s : State) : State := s.setR (nextIndex s.params s.r)

/-- A byte joins the ring, which has room for it. -/
def storeByte (b : Byte) (s : State) : State :=
  (s.setBuf (Memory.write s.buf (slotOf s.params s.w) b)).setW (nextIndex s.params s.w)

section
variable {s : State} (hs : AtomicRing s)
include hs

theorem availCount_eq_zero : availCount s = 0 ↔ s.w = s.r := availOf_eq_zero _ _ _ hs.writeIndex hs.readIndex

theorem availCount_dropOldest (hne : s.w ≠ s.r) : availCount (dropOldest s) + 1 = availCount s := by
  have hw := hs.writeIndex
  have hr := hs.readIndex
  have hcount := availOf_cases s.params s.w s.r hw hr
  have hnext := nextIndex_cases s.params s.r hr
  have hcount' := availOf_cases s.params s.w (nextIndex s.params s.r) hw (nextIndex_lt _ _)
  change availOf s.params s.w (nextIndex s.params s.r) + 1 = availOf s.params s.w s.r
  omega

theorem availCount_storeByte (b : Byte) (hroom : availCount s < capacity s.params) :
    availCount (storeByte b s) = availCount s + 1 := by
  have hw := hs.writeIndex
  have hr := hs.readIndex
  have hhalf := (capacity_dvd_indexModulus _ hs.configured).2
  have hcount := availOf_cases s.params s.w s.r hw hr
  have hnext := nextIndex_cases s.params s.w hw
  have hcount' := availOf_cases s.params (nextIndex s.params s.w) s.r (nextIndex_lt _ _) hr
  change availOf s.params s.w s.r < _ at hroom
  change availOf s.params (nextIndex s.params s.w) s.r = availOf s.params s.w s.r + 1
  omega

theorem atomicRing_dropOldest (hne : s.w ≠ s.r) : AtomicRing (dropOldest s) where
  configured := hs.configured
  atomic := hs.atomic
  writeIndex := hs.writeIndex
  readIndex := nextIndex_lt _ _
  bound := calc
    availCount (dropOldest s) ≤ availCount s := by have := availCount_dropOldest hs hne; omega
    _ ≤ capacity s.params := hs.bound

theorem atomicRing_storeByte (b : Byte) (hroom : availCount s < capacity s.params) : AtomicRing (storeByte b s) where
  configured := hs.configured
  atomic := hs.atomic
  writeIndex := nextIndex_lt _ _
  readIndex := hs.readIndex
  bound := by rw [availCount_storeByte hs b hroom]; exact hroom

theorem held_eq_cons_dropOldest (hne : s.w ≠ s.r) :
    held s = Memory.read s.buf (slotOf s.params s.r) :: held (dropOldest s) := by
  rw [held_eq_bytesFrom s hs.configured, held_eq_bytesFrom (dropOldest s) hs.configured, ← availCount_dropOldest hs hne,
    bytesFrom_cons _ _ _ _ hs.configured]
  rfl

theorem held_storeByte (b : Byte) (hroom : availCount s < capacity s.params) : held (storeByte b s) = held s ++ [b] := by
  rw [held_eq_bytesFrom s hs.configured, held_eq_bytesFrom (storeByte b s) hs.configured,
    availCount_storeByte hs b hroom, ← bytesFrom_push _ _ _ _ _ hroom,
    ← slotOf_write s hs.configured hs.writeIndex hs.readIndex]
  rfl

theorem ne_of_full (hfull : availCount s = capacity s.params) : s.w ≠ s.r := fun h => by
  have hzero := (availCount_eq_zero hs).2 h
  have hpos := capacity_pos s.params
  omega

/-- A full ring has room once its oldest byte is dropped. -/
theorem room_dropOldest (hfull : availCount s = capacity s.params) :
    availCount (dropOldest s) < capacity (dropOldest s).params := by
  have hcount := availCount_dropOldest hs (ne_of_full hs hfull)
  change _ < capacity s.params
  omega

/-! ## PUSH and POP as these parts (R100, R102) -/

theorem exec_push_room (b : Byte) (hroom : availCount s < capacity s.params) :
    exec (.push b) s = .next (storeByte b s) := by
  have hnot : ¬isFull s = true := by rw [isFull_iff]; omega
  rw [exec, execPush, if_pos hs.atomic, pushAtomic_eq, dropOldestIfFull, if_neg hnot]
  rfl

theorem exec_push_full (b : Byte) (hfull : availCount s = capacity s.params) :
    exec (.push b) s = .next (storeByte b (dropOldest s)) := by
  rw [exec, execPush, if_pos hs.atomic, pushAtomic_eq, dropOldestIfFull, if_pos ((isFull_iff s).2 hfull)]
  rfl

theorem exec_pop_empty (hempty : s.w = s.r) : exec .pop s = .next (giveResult s (.pop (popResult true 0x00#8))) := by
  rw [exec, execPop, if_pos hs.atomic, popAtomic_eq, if_pos (by simp [isEmpty, hempty])]

theorem exec_pop_nonempty (hne : s.w ≠ s.r) :
    exec .pop s =
      .next (giveResult (dropOldest s) (.pop (popResult false (Memory.read s.buf (slotOf s.params s.r))))) := by
  rw [exec, execPop, if_pos hs.atomic, popAtomic_eq, if_neg (by simp [isEmpty, hne])]
  rfl

theorem exec_avail : exec .avail s = .next (giveResult s (.avail (availCount s))) := by
  rw [exec, execAvail, if_pos hs.atomic, availAtomic]

/-- PUSH adds its byte to the queue, of which the last `N` bytes stay (R100, R108). -/
theorem exec_push_queue (b : Byte) :
    ∃ t, exec (.push b) s = .next t ∧ AtomicRing t ∧
      held t = (held s ++ [b]).drop (availCount s + 1 - capacity s.params) := by
  rcases Nat.lt_or_eq_of_le hs.bound with hroom | hfull
  · refine ⟨_, exec_push_room hs b hroom, atomicRing_storeByte hs b hroom, ?_⟩
    rw [held_storeByte hs b hroom, Nat.sub_eq_zero_of_le hroom, List.drop_zero]
  · have hne := ne_of_full hs hfull
    have hdrop := atomicRing_dropOldest hs hne
    refine ⟨_, exec_push_full hs b hfull, atomicRing_storeByte hdrop b (room_dropOldest hs hfull), ?_⟩
    rw [held_storeByte hdrop b (room_dropOldest hs hfull), held_eq_cons_dropOldest hs hne, hfull, Nat.add_sub_cancel_left]
    rfl

end

/-! ## Operations that leave the ring as it was -/

theorem keepsRing_shiftChains (d : Byte) (s : State) :
    KeepsRing s (shiftChains d s) ∧ (shiftChains d s).results = s.results := by
  rw [shiftChains_eq]
  exact ⟨KeepsRing.refl s, rfl⟩

theorem keepsRing_latchChains (s : State) : KeepsRing s (latchChains s) ∧ (latchChains s).results = s.results := by
  rw [latchChains_eq]
  exact ⟨KeepsRing.refl s, rfl⟩

theorem keepsRing_shiftAll (ds : List Byte) (s : State) :
    KeepsRing s (shiftAll ds s) ∧ (shiftAll ds s).results = s.results := by
  induction ds generalizing s with
  | nil => exact ⟨KeepsRing.refl s, rfl⟩
  | cons d ds ih =>
    obtain ⟨hring, hresults⟩ := keepsRing_shiftChains d s
    obtain ⟨hrest, hresults'⟩ := ih (shiftChains d s)
    exact ⟨hring.trans hrest, hresults'.trans hresults⟩

/-- A display operation leaves the ring as it was and hands nothing back. -/
theorem exec_displayOperation (i : Instr) (s : State) (h : displayOperation i = true) :
    ∃ t, exec i s = .next t ∧ KeepsRing s t ∧ t.results = s.results := by
  cases i with
  | push _ => simp [displayOperation] at h
  | pop => simp [displayOperation] at h
  | avail => simp [displayOperation] at h
  | setcfg en pol => exact ⟨_, rfl, KeepsRing.refl s, rfl⟩
  | loadpos pos sym =>
    rw [exec, execLoadpos]
    split
    · exact ⟨_, rfl, KeepsRing.refl s, rfl⟩
    · exact ⟨_, rfl, KeepsRing.refl s, rfl⟩
  | showOut =>
    obtain ⟨hring, hresults⟩ := keepsRing_shiftAll (showOperands s) s
    obtain ⟨hring', hresults'⟩ := keepsRing_latchChains (shiftAll (showOperands s) s)
    exact ⟨_, rfl, hring.trans hring', hresults'.trans hresults⟩
  | shift d => exact ⟨_, rfl, keepsRing_shiftChains d s⟩
  | latch => exact ⟨_, rfl, keepsRing_latchChains s⟩

/-- Neither AVAIL nor a display operation writes an index or a slot, and none of them hands back a byte (R105). -/
theorem exec_keepsRing {i : Instr} {s : State} (hs : AtomicRing s) (hpush : isPush i = false) (hpop : i ≠ .pop) :
    ∃ t new, exec i s = .next t ∧ KeepsRing s t ∧ t.results = s.results ++ new ∧ takenBytes new = [] := by
  have hkind : i = .avail ∨ displayOperation i = true := by
    cases i with
    | push b => simp [isPush] at hpush
    | pop => exact absurd rfl hpop
    | avail => exact .inl rfl
    | setcfg _ _ | loadpos _ _ | showOut | shift _ | latch => exact .inr rfl
  rcases hkind with rfl | hdisplay
  · exact ⟨_, _, exec_avail hs, KeepsRing.refl s, rfl, rfl⟩
  · obtain ⟨t, hexec, hring, hresults⟩ := exec_displayOperation i s hdisplay
    exact ⟨t, [], hexec, hring, by rw [hresults, List.append_nil], rfl⟩

/-! ## Overruns -/

theorem overruns_push (b : Byte) (s : State) :
    overruns [.push b] s = if availCount s = capacity s.params then 1 else 0 := by
  obtain ⟨r, buf, w, h⟩ := exec_push_eq_withRing b s
  simp only [overruns, h, isFull_iff, Nat.add_zero]

theorem overruns_of_not_push {i : Instr} (s : State) (h : isPush i = false) : overruns [i] s = 0 := by
  cases i with
  | push b => simp [isPush] at h
  | _ => simp only [overruns]; split <;> rfl

/-- An overrun drops a byte that is there to drop. -/
theorem overruns_le_length (i : Instr) (s : State) : overruns [i] s ≤ (held s ++ pushedBytes [i]).length := by
  cases i with
  | push b =>
    rw [overruns_push, List.length_append]
    split
    · exact Nat.le_add_left 1 _
    · exact Nat.zero_le _
  | pop | avail | setcfg _ _ | loadpos _ _ | showOut | shift _ | latch =>
    rw [overruns_of_not_push s rfl]
    exact Nat.zero_le _

theorem pushedBytes_of_not_push {i : Instr} (h : isPush i = false) : pushedBytes [i] = [] := by
  cases i with
  | push b => simp [isPush] at h
  | _ => rfl

theorem overruns_cons {i : Instr} {s t : State} (is : List Instr) (h : exec i s = .next t) :
    overruns (i :: is) s = overruns [i] s + overruns is t := by
  simp only [overruns, h, Nat.add_zero]

theorem execAll_cons {i : Instr} {s t : State} (is : List Instr) (h : exec i s = .next t) :
    execAll (i :: is) s = execAll is t := by
  simp only [execAll, h]

theorem pushedBytes_cons (i : Instr) (is : List Instr) : pushedBytes (i :: is) = pushedBytes [i] ++ pushedBytes is :=
  List.filterMap_append (l := [i])

theorem takenBytes_append (rs rs' : List Result) : takenBytes (rs ++ rs') = takenBytes rs ++ takenBytes rs' :=
  List.filterMap_append

theorem takenBytes_popResult (empty : Bool) (v : Byte) :
    takenBytes [.pop (popResult empty v)] = if empty then [] else [v] := by
  cases empty <;> simp [takenBytes]

/-! ## One operation on the queue -/

/-- The account of one operation: `new` is handed back, and the bytes taken and those held after it are those held before it
and those pushed, less as many from the front as overruns dropped. -/
structure Accounts (i : Instr) (s t : State) (new : List Result) : Prop where
  runs : exec i s = .next t
  params : t.params = s.params
  ring : AtomicRing t
  results : t.results = s.results ++ new
  bytes : takenBytes new ++ held t = (held s ++ pushedBytes [i]).drop (overruns [i] s)

section
variable {s : State} (hs : AtomicRing s)
include hs

theorem accounts_push (b : Byte) : ∃ t new, Accounts (.push b) s t new := by
  obtain ⟨t, hexec, hring, hheld⟩ := exec_push_queue hs b
  obtain ⟨hresults, -, hparams, -⟩ := exec_push_frame hexec
  have hdrop : overruns [.push b] s = availCount s + 1 - capacity s.params := by
    have hbound := hs.bound
    rw [overruns_push]
    split <;> omega
  exact ⟨t, [], hexec, hparams, hring, by rw [hresults, List.append_nil], by rw [hdrop]; exact hheld⟩

theorem accounts_pop : ∃ t new, Accounts .pop s t new := by
  by_cases hempty : s.w = s.r
  · refine ⟨_, _, exec_pop_empty hs hempty, rfl, atomicRing_of_keepsRing hs (KeepsRing.refl s), rfl, ?_⟩
    rw [takenBytes_popResult, overruns_of_not_push s rfl, pushedBytes_of_not_push rfl, List.append_nil, List.drop_zero]
    rfl
  · refine ⟨_, _, exec_pop_nonempty hs hempty, rfl,
      atomicRing_of_keepsRing (atomicRing_dropOldest hs hempty) (KeepsRing.refl (dropOldest s)), rfl, ?_⟩
    rw [takenBytes_popResult, overruns_of_not_push s rfl, pushedBytes_of_not_push rfl, List.append_nil, List.drop_zero,
      held_eq_cons_dropOldest hs hempty]
    rfl

theorem accounts_of_keepsRing {i : Instr} (hpush : isPush i = false) (hpop : i ≠ .pop) : ∃ t new, Accounts i s t new := by
  obtain ⟨t, new, hexec, hring, hresults, htaken⟩ := exec_keepsRing hs hpush hpop
  refine ⟨t, new, hexec, hring.1, atomicRing_of_keepsRing hs hring, hresults, ?_⟩
  rw [htaken, hring.held, overruns_of_not_push s hpush, pushedBytes_of_not_push hpush, List.append_nil]
  rfl

theorem exec_accounts (i : Instr) : ∃ t new, Accounts i s t new := by
  cases i with
  | push b => exact accounts_push hs b
  | pop => exact accounts_pop hs
  | avail | setcfg _ _ | loadpos _ _ | showOut | shift _ | latch => exact accounts_of_keepsRing hs rfl (by simp)

end

/-! ## Sequences of operations on the queue -/

/-- Keeping the last `n` entries before more entries join does not change the last `n` at the end. -/
theorem drop_append_drop {α : Type} (xs ys : List α) (n : Nat) :
    (xs.drop (xs.length - n) ++ ys).drop ((xs.drop (xs.length - n)).length + ys.length - n) =
      (xs ++ ys).drop (xs.length + ys.length - n) := by
  rw [← List.drop_append_of_le_length (Nat.sub_le _ _), List.drop_drop, List.length_drop]
  congr 1
  omega

/-- A sequence of PUSHes on the queue (R108). -/
theorem execAll_push_queue (bs : List Byte) {s : State} (hs : AtomicRing s) :
    ∃ t, execAll (bs.map Instr.push) s = .next t ∧
      held t = (held s ++ bs).drop ((held s).length + bs.length - capacity s.params) ∧
      t.results = s.results ∧ SameDisplay s t ∧ SameControl s t := by
  induction bs generalizing s with
  | nil =>
    have hbound : (held s).length - capacity s.params = 0 := by rw [held_length]; exact Nat.sub_eq_zero_of_le hs.bound
    exact ⟨s, rfl, by simp [hbound], rfl, sameDisplay_refl s, sameControl_refl s⟩
  | cons b bs ih =>
    obtain ⟨u, hexec, hu, hheld⟩ := exec_push_queue hs b
    obtain ⟨hresults, hdisplay, hcontrol⟩ := exec_push_frame hexec
    have hparams : u.params = s.params := hcontrol.1
    obtain ⟨t, hrest, hheld', hresults', hdisplay', hcontrol'⟩ := ih hu
    refine ⟨t, by rw [List.map_cons, execAll_cons _ hexec, hrest], ?_, hresults'.trans hresults,
      sameDisplay_trans hdisplay hdisplay', sameControl_trans hcontrol hcontrol'⟩
    have hlen : availCount s + 1 = (held s ++ [b]).length := by rw [List.length_append, held_length]; rfl
    rw [hlen] at hheld
    rw [hheld', hparams, hheld, drop_append_drop, ← hlen, ← held_length, List.append_assoc,
      List.singleton_append, List.length_cons, Nat.add_right_comm, Nat.add_assoc]

/-- Over a sequence of operations, what is handed back and then what is held is a subsequence of what was held and then what
was pushed, shorter by the overruns (R107). -/
theorem execAll_accounts (is : List Instr) {s : State} (hs : AtomicRing s) :
    ∃ (t : State) (new : List Result), execAll is s = .next t ∧ t.results = s.results ++ new ∧
      (takenBytes new ++ held t).Sublist (held s ++ pushedBytes is) ∧
      (takenBytes new ++ held t).length + overruns is s = (held s ++ pushedBytes is).length := by
  induction is generalizing s with
  | nil => exact ⟨s, [], rfl, by simp, by simp [takenBytes, pushedBytes], by simp [takenBytes, pushedBytes, overruns]⟩
  | cons i is ih =>
    obtain ⟨u, first, hi⟩ := exec_accounts hs i
    obtain ⟨t, later, hrest, hresults, hsub, hlen⟩ := ih hi.ring
    have hdropped : (takenBytes first ++ held u).Sublist (held s ++ pushedBytes [i]) := hi.bytes ▸ List.drop_sublist _ _
    have hcount : (takenBytes first ++ held u).length + overruns [i] s = (held s ++ pushedBytes [i]).length := by
      rw [hi.bytes, List.length_drop, Nat.sub_add_cancel (overruns_le_length i s)]
    refine ⟨t, first ++ later, by rw [execAll_cons _ hi.runs, hrest], by rw [hresults, hi.results, List.append_assoc],
      ?_, ?_⟩
    · have hlater : (takenBytes first ++ (takenBytes later ++ held t)).Sublist
          (takenBytes first ++ (held u ++ pushedBytes is)) := hsub.append_left _
      have hfirst : ((takenBytes first ++ held u) ++ pushedBytes is).Sublist
          ((held s ++ pushedBytes [i]) ++ pushedBytes is) := hdropped.append_right _
      simp only [takenBytes_append, pushedBytes_cons i is, List.append_assoc] at hfirst ⊢
      exact hlater.trans hfirst
    · rw [overruns_cons is hi.runs, takenBytes_append, pushedBytes_cons]
      simp only [List.length_append] at hcount hlen ⊢
      omega

/-- Settles O26: by induction on the sequence, each operation being accounted for; a subsequence of full length is equal. -/
theorem bytesLeaveInTheOrderTheyCame : Obligations.BytesLeaveInTheOrderTheyCame := by
  unfold Obligations.BytesLeaveInTheOrderTheyCame
  intro is s hinv hatomic
  obtain ⟨t, new, hrun, hresults, hsub, hlen⟩ := execAll_accounts is (atomicRing_of_invariant hinv hatomic)
  exact ⟨t, new, hrun, hresults, hsub, hlen, fun hnone => hsub.eq_of_length (by rw [← hlen, hnone, Nat.add_zero])⟩

/-- Settles O25: by induction on the bytes, each PUSH keeping the last `N` of the queue with its byte. -/
theorem overrunKeepsTheNewestBytes : Obligations.OverrunKeepsTheNewestBytes := by
  unfold Obligations.OverrunKeepsTheNewestBytes
  intro bs s hinv hatomic
  obtain ⟨t, hrun, hheld, hframe⟩ := execAll_push_queue bs (atomicRing_of_invariant hinv hatomic)
  refine ⟨t, hrun, hheld, ?_, hframe⟩
  rw [hheld, List.length_drop, List.length_append]
  omega

/-! ## The count law (R105) -/

section
variable {s : State} (hs : AtomicRing s)
include hs

theorem availCount_push (b : Byte) : ∃ t, exec (.push b) s = .next t ∧
    (availCount s < capacity s.params → availCount t = availCount s + 1) ∧
    (availCount s = capacity s.params →
      t.w = nextIndex s.params s.w ∧ t.r = nextIndex s.params s.r ∧ availCount t = capacity s.params) := by
  rcases Nat.lt_or_eq_of_le hs.bound with hroom | hfull
  · exact ⟨_, exec_push_room hs b hroom, fun _ => availCount_storeByte hs b hroom, fun h => by omega⟩
  · have hne := ne_of_full hs hfull
    refine ⟨_, exec_push_full hs b hfull, fun h => by omega, fun _ => ⟨rfl, rfl, ?_⟩⟩
    rw [availCount_storeByte (atomicRing_dropOldest hs hne) b (room_dropOldest hs hfull),
      availCount_dropOldest hs hne, hfull]

theorem availCount_pop : ∃ t, exec .pop s = .next t ∧ availCount t = availCount s - 1 := by
  by_cases hempty : s.w = s.r
  · refine ⟨_, exec_pop_empty hs hempty, ?_⟩
    rw [(availCount_eq_zero hs).2 hempty]
    exact (availCount_eq_zero hs).2 hempty
  · exact ⟨_, exec_pop_nonempty hs hempty, Nat.eq_sub_of_add_eq (availCount_dropOldest hs hempty)⟩

theorem availCount_exec_le {i : Instr} {t : State} (h : exec i s = .next t) : availCount t ≤ capacity s.params := by
  obtain ⟨u, new, hi⟩ := exec_accounts hs i
  obtain rfl : u = t := Host.Outcome.next.inj (hi.runs.symm.trans h)
  exact hi.params ▸ hi.ring.bound

end

/-- Settles O22: a PUSH is a drop, on a full ring, and a store, a POP is a drop, and the others leave the ring as it was. -/
theorem everyOperationKeepsTheBound : Obligations.EveryOperationKeepsTheBound := by
  unfold Obligations.EveryOperationKeepsTheBound
  intro s hinv hatomic
  have hs := atomicRing_of_invariant hinv hatomic
  refine ⟨availCount_push hs, availCount_pop hs, fun i hpush hpop => ?others, fun i t => availCount_exec_le hs⟩
  case others =>
    obtain ⟨t, -, hexec, ⟨-, hw, hr, -⟩, -⟩ := exec_keepsRing hs hpush hpop
    exact ⟨t, hexec, hw, hr⟩

end Sys2Proof.Proofs
end

section
/-! PROOFS. The NixieEncoder (42_display_encode.md R120 to R126). A codeword is known by the bits it sets: each symbol but
BLANK is recognised by its bits, so no two symbols share a codeword and none reaches bit 12. A final codeword is the masked
one, which is again some symbol's codeword, or its complement in the low twelve bits. -/

namespace Sys2Proof.Proofs

open Sys2Proof Sys2Proof.Machine

/-! ## The bit numbers (00_scope.md R9, R121) -/

theorem leftDotBit_eq (p : Params) : leftDotBit p = 9 ∨ leftDotBit p = 10 := by
  unfold leftDotBit
  split <;> simp

theorem rightDotBit_eq (p : Params) : rightDotBit p = 19 - leftDotBit p := rfl

/-- The digit table leaves bits 9 and 10 to the dots. -/
theorem digitBit_range (d : Fin 10) : digitBit d < 9 ∨ digitBit d = 11 := by
  revert d; decide

theorem digitBit_lt (d : Fin 10) : digitBit d < 12 := by
  have := digitBit_range d
  omega

theorem leftDotBit_lt (p : Params) : leftDotBit p < 12 := by
  have := leftDotBit_eq p
  omega

theorem rightDotBit_lt (p : Params) : rightDotBit p < 12 := by
  have := leftDotBit_eq p
  have := rightDotBit_eq p
  omega

theorem digitBit_ne_leftDotBit (p : Params) (d : Fin 10) : digitBit d ≠ leftDotBit p := by
  have := digitBit_range d
  have := leftDotBit_eq p
  omega

theorem digitBit_ne_rightDotBit (p : Params) (d : Fin 10) : digitBit d ≠ rightDotBit p := by
  have := digitBit_range d
  have := leftDotBit_eq p
  have := rightDotBit_eq p
  omega

theorem rightDotBit_ne_leftDotBit (p : Params) : rightDotBit p ≠ leftDotBit p := by
  have := leftDotBit_eq p
  have := rightDotBit_eq p
  omega

theorem digitBit_injective : ∀ d e : Fin 10, digitBit d = digitBit e → d = e := by decide

theorem digitBit_eq (d : Fin 10) : digitBit d = if d.val = 0 then 11 else d.val - 1 := by
  revert d; decide

/-! ## The bits a codeword sets (R120) -/

/-- The bits that are 1 in a symbol's codeword: one for a digit or a dot, two for SIGN, none for BLANK. -/
def setBits (p : Params) : Symbol → List Nat
  | .digit d => [digitBit d]
  | .dot => [leftDotBit p]
  | .sign => [leftDotBit p, rightDotBit p]
  | .blank => []

theorem setBits_lt (p : Params) (y : Symbol) : ∀ j ∈ setBits p y, j < 12 := by
  cases y with
  | digit d => simp [setBits, digitBit_lt]
  | dot => simp [setBits, leftDotBit_lt]
  | sign => simp [setBits, leftDotBit_lt, rightDotBit_lt]
  | blank => simp [setBits]

theorem getLsbD_one_shiftLeft {k : Nat} (hk : k < 12) (j : Nat) : (1#16 <<< k).getLsbD j = true ↔ j = k := by
  have : k < 16 := by omega
  rw [← BitVec.twoPow_eq, BitVec.getLsbD_twoPow]
  simp [this, eq_comm]

/-- A codeword is its list of set bits; the table's laws are read off that list. -/
theorem codeword_getLsbD (p : Params) (y : Symbol) (j : Nat) : (codeword p y).getLsbD j = true ↔ j ∈ setBits p y := by
  cases y with
  | digit d => rw [codeword, getLsbD_one_shiftLeft (digitBit_lt d), setBits, List.mem_singleton]
  | dot => rw [codeword, getLsbD_one_shiftLeft (leftDotBit_lt p), setBits, List.mem_singleton]
  | sign =>
    rw [codeword, BitVec.getLsbD_or, Bool.or_eq_true, getLsbD_one_shiftLeft (leftDotBit_lt p),
      getLsbD_one_shiftLeft (rightDotBit_lt p), setBits, List.mem_pair]
  | blank => simp [codeword, setBits]

@[simp] theorem codeword_blank (p : Params) : codeword p .blank = 0x0000#16 := rfl

theorem one_shiftLeft_eq_ofNat (k : Nat) : 1#16 <<< k = BitVec.ofNat 16 (2 ^ k) := by
  apply BitVec.eq_of_toNat_eq
  simp [Nat.shiftLeft_eq]

theorem codeword_digit (p : Params) (d : Fin 10) :
    codeword p (.digit d) = BitVec.ofNat 16 (2 ^ (if d.val = 0 then 11 else d.val - 1)) := by
  rw [codeword, digitBit_eq, one_shiftLeft_eq_ofNat]

theorem codeword_dot (p : Params) : codeword p .dot = BitVec.ofNat 16 (2 ^ leftDotBit p) := by
  rw [codeword, one_shiftLeft_eq_ofNat]

/-- SIGN sets bits 9 and 10, whichever of them is the left dot. -/
theorem codeword_sign (p : Params) : codeword p .sign = 0x600#16 := by
  rcases leftDotBit_eq p with h | h <;> rw [codeword, rightDotBit_eq, h] <;> rfl

theorem codeword_sign_eq_ofNat (p : Params) :
    codeword p .sign = BitVec.ofNat 16 (2 ^ leftDotBit p + 2 ^ rightDotBit p) := by
  rw [codeword_sign, rightDotBit_eq]
  rcases leftDotBit_eq p with h | h <;> rw [h] <;> rfl

theorem codeword_getLsbD_of_ge (p : Params) (y : Symbol) {j : Nat} (hj : 12 ≤ j) : (codeword p y).getLsbD j = false := by
  rw [Bool.eq_false_iff]
  intro h
  have := setBits_lt p y j ((codeword_getLsbD p y j).1 h)
  omega

theorem codeword_toNat_lt (p : Params) (y : Symbol) : (codeword p y).toNat < 4096 :=
  Nat.lt_pow_two_of_testBit (n := 12) _ fun _ hj => codeword_getLsbD_of_ge p y hj

/-! ## Each symbol known by its bits -/

theorem digitBit_mem_setBits (p : Params) (d : Fin 10) (y : Symbol) : digitBit d ∈ setBits p y ↔ y = .digit d := by
  cases y with
  | digit e =>
    rw [setBits, List.mem_singleton, Symbol.digit.injEq]
    exact ⟨fun h => (digitBit_injective d e h).symm, fun h => h ▸ rfl⟩
  | dot => simp [setBits, digitBit_ne_leftDotBit]
  | sign => simp [setBits, digitBit_ne_leftDotBit, digitBit_ne_rightDotBit]
  | blank => simp [setBits]

theorem rightDotBit_mem_setBits (p : Params) (y : Symbol) : rightDotBit p ∈ setBits p y ↔ y = .sign := by
  cases y with
  | digit d => simp [setBits, (digitBit_ne_rightDotBit p d).symm]
  | dot => simp [setBits, rightDotBit_ne_leftDotBit]
  | sign | blank => simp [setBits]

theorem leftDotBit_mem_setBits (p : Params) (y : Symbol) : leftDotBit p ∈ setBits p y ↔ y = .dot ∨ y = .sign := by
  cases y with
  | digit d => simp [setBits, (digitBit_ne_leftDotBit p d).symm]
  | dot | sign | blank => simp [setBits]

/-- Symbols that set the same bits are the same: the right-dot bit tells SIGN, the left one DOT then, and its own bit each
digit. -/
theorem setBits_injective {p : Params} {y z : Symbol} (h : ∀ j, j ∈ setBits p y ↔ j ∈ setBits p z) : y = z := by
  have hdigit (d : Fin 10) : y = .digit d ↔ z = .digit d := by
    rw [← digitBit_mem_setBits p, h, digitBit_mem_setBits]
  have hsign : y = .sign ↔ z = .sign := by
    rw [← rightDotBit_mem_setBits p, h, rightDotBit_mem_setBits]
  have hdot : y = .dot ∨ y = .sign ↔ z = .dot ∨ z = .sign := by
    rw [← leftDotBit_mem_setBits p, h, leftDotBit_mem_setBits]
  cases y with
  | digit d => exact ((hdigit d).1 rfl).symm
  | sign => exact (hsign.1 rfl).symm
  | dot => exact ((hdot.1 (.inl rfl)).resolve_right fun hz => absurd (hsign.2 hz) (by simp)).symm
  | blank =>
    cases z with
    | digit d => exact (hdigit d).2 rfl
    | sign => exact hsign.2 rfl
    | dot => simp at hdot
    | blank => rfl

theorem codeword_injective (p : Params) {y z : Symbol} (h : codeword p y = codeword p z) : y = z :=
  setBits_injective fun j => by rw [← codeword_getLsbD, h, codeword_getLsbD]

/-- Settles O39: the values one by one, and the rest from the bits each symbol sets. -/
theorem codewordTable : Obligations.CodewordTable := by
  unfold Obligations.CodewordTable
  intro p
  exact ⟨leftDotBit_eq p, rightDotBit_eq p, codeword_digit p, codeword_dot p, codeword_sign_eq_ofNat p, codeword_sign p,
    codeword_blank p, fun _ _ => codeword_injective p, fun y _ => codeword_getLsbD_of_ge p y,
    fun y h => (rightDotBit_mem_setBits p y).1 ((codeword_getLsbD p y _).1 h)⟩

/-! ## The final codeword (R124) -/

/-- What position `p` shows before the polarity is applied: its register, or BLANK when it is disabled. -/
def maskedCode (s : State) (p : Fin 8) : Codeword := if s.cfg.getLsbD p.val then s.dcode[p] else 0x0000#16

theorem maskedCode_of_disabled {s : State} {p : Fin 8} (h : s.cfg.getLsbD p.val = false) : maskedCode s p = 0x0000#16 := by
  rw [maskedCode, h, if_neg Bool.false_ne_true]

theorem maskedCode_of_enabled {s : State} {p : Fin 8} (h : s.cfg.getLsbD p.val = true) : maskedCode s p = s.dcode[p] := by
  rw [maskedCode, if_pos h]

/-- Masking a register that holds BLANK makes no difference. -/
theorem maskedCode_of_blank {s : State} {p : Fin 8} (h : s.dcode[p] = 0x0000#16) : maskedCode s p = 0x0000#16 := by
  rw [maskedCode, h, ite_self]

/-- The masked code is a symbol's codeword again, BLANK's for a disabled position. -/
theorem isCodeword_maskedCode {s : State} {p : Fin 8} (h : isCodeword s.params s.dcode[p]) :
    isCodeword s.params (maskedCode s p) := by
  unfold maskedCode
  split
  · exact h
  · exact ⟨.blank, codeword_blank s.params⟩

theorem positionEnabled_eq (s : State) (p : Fin 8) : positionEnabled s p = s.cfg.getLsbD p.val := by
  simp [positionEnabled, configEn, ← BitVec.getLsbD_eq_getElem, BitVec.getLsbD_extractLsb']

theorem configPol_eq_one_iff (cfg : BitVec 9) : configPol cfg = 1#1 ↔ cfg.getLsbD 8 = true := by
  revert cfg; decide

/-- The final codeword is the masked one under the polarity. -/
theorem finalCode_eq (s : State) (p : Fin 8) :
    finalCode s p = if s.cfg.getLsbD 8 then maskedCode s p ^^^ 0x0FFF#16 else maskedCode s p := by
  simp only [finalCode, maskedCode, positionEnabled_eq, configPol_eq_one_iff]

/-- Settles O41: R124 for a disabled and for an enabled position. -/
theorem disabledPositionsAreBlank : Obligations.DisabledPositionsAreBlank := by
  unfold Obligations.DisabledPositionsAreBlank
  intro s p
  refine ⟨fun hdisabled => ?disabled, fun henabled y hy => ?enabled⟩
  case disabled => rw [finalCode_eq, maskedCode_of_disabled hdisabled, BitVec.zero_xor]
  case enabled => rw [finalCode_eq, maskedCode_of_enabled henabled, hy]

/-! ## The polarity (R125) -/

theorem configWord_getLsbD_pol (en : Byte) (pol : BitVec 1) : (configWord en pol).getLsbD 8 = true ↔ pol = 1#1 := by
  rw [← configPol_eq_one_iff, configPol_configWord]

theorem configWord_getLsbD_en (en : Byte) (pol : BitVec 1) (p : Fin 8) :
    (configWord en pol).getLsbD p.val = en.getLsbD p.val := by
  rw [configWord, BitVec.getLsbD_append, if_pos p.isLt]

/-- The enable mask does not look at the polarity. -/
theorem maskedCode_configWord (s : State) (en : Byte) (pol pol' : BitVec 1) (p : Fin 8) :
    maskedCode { s with cfg := configWord en pol } p = maskedCode { s with cfg := configWord en pol' } p := by
  simp only [maskedCode, configWord_getLsbD_en]

theorem finalCode_activeHigh (s : State) (en : Byte) (p : Fin 8) :
    finalCode { s with cfg := configWord en 0#1 } p = maskedCode { s with cfg := configWord en 0#1 } p := by
  rw [finalCode_eq, if_neg (mt (configWord_getLsbD_pol en 0#1).1 (by decide))]

/-- Active-low is active-high with bits 11:0 inverted. -/
theorem finalCode_activeLow (s : State) (en : Byte) (p : Fin 8) :
    finalCode { s with cfg := configWord en 1#1 } p = finalCode { s with cfg := configWord en 0#1 } p ^^^ 0x0FFF#16 := by
  rw [finalCode_eq, if_pos ((configWord_getLsbD_pol en 1#1).2 rfl), finalCode_activeHigh, maskedCode_configWord s en 1#1 0#1]

theorem xor_lowTwelve_toNat_lt {c : Codeword} (h : c.toNat < 4096) : (c ^^^ 0x0FFF#16).toNat < 4096 := by
  rw [BitVec.toNat_xor]
  exact Nat.xor_lt_two_pow (n := 12) h (by decide)

/-- Settles O40: the masked code is a symbol's codeword, below bit 12, and active-low inverts bits 11:0 of it. -/
theorem polarityInvertsTheLowTwelveBits : Obligations.PolarityInvertsTheLowTwelveBits := by
  unfold Obligations.PolarityInvertsTheLowTwelveBits
  intro s en p hinv high low
  have hlow : low = high ^^^ 0x0FFF#16 := finalCode_activeLow s en p
  have hhigh : high = maskedCode { s with cfg := configWord en 0#1 } p := finalCode_activeHigh s en p
  have hrange : high.toNat < 4096 := by
    obtain ⟨y, hy⟩ := isCodeword_maskedCode (s := { s with cfg := configWord en 0#1 }) (hinv.displayCode p)
    rw [hhigh, ← hy]
    exact codeword_toNat_lt _ y
  refine ⟨hlow, hrange, hlow ▸ xor_lowTwelve_toNat_lt hrange, fun hblank => ?blank⟩
  case blank =>
    have hzero : high = 0x0000#16 := hhigh.trans (maskedCode_of_blank hblank)
    exact ⟨hzero, by rw [hlow, hzero, BitVec.zero_xor]⟩

end Sys2Proof.Proofs
end

section
/-! PROOFS. The DisplayDriver (43_display_drive.md R140 to R146). What a sequence of SHIFTs leaves in a chain is one number,
modulo 2^12: the chain's old bits with the line's bits written after them. A LATCH after a few SHIFTs shows that number, and
over the twelve operands of a SHOW the old bits are pushed past stage 11 and the line's codeword is left. -/

namespace Sys2Proof.Proofs

open Sys2Proof Sys2Proof.Machine

/-! ## One chain -/

/-- The number whose binary digits are those of `n` and then the bits that the operands `ds` carry for line `l`. -/
def bitsAfter (l : Fin 8) (n : Nat) (ds : List Byte) : Nat := ds.foldl (fun n d => 2 * n + (d.getLsbD l.val).toNat) n

theorem bitsAfter_cons (l : Fin 8) (n : Nat) (d : Byte) (ds : List Byte) :
    bitsAfter l n (d :: ds) = bitsAfter l (2 * n + (d.getLsbD l.val).toNat) ds := rfl

theorem bitsAfter_eq_add (l : Fin 8) (n : Nat) (ds : List Byte) :
    bitsAfter l n ds = n * 2 ^ ds.length + bitsAfter l 0 ds := by
  induction ds generalizing n with
  | nil => simp [bitsAfter]
  | cons d ds ih =>
    rw [bitsAfter_cons, bitsAfter_cons, ih, ih (2 * 0 + _), List.length_cons, Nat.pow_succ]
    ring

/-- What is lost past stage 11 before the bits come in makes no difference after it. -/
theorem bitsAfter_mod (l : Fin 8) (n : Nat) (ds : List Byte) :
    bitsAfter l (n % 2 ^ 12) ds % 2 ^ 12 = bitsAfter l n ds % 2 ^ 12 := by
  rw [bitsAfter_eq_add l (n % 2 ^ 12), bitsAfter_eq_add l n]
  exact ((Nat.mod_modEq n (2 ^ 12)).mul_right _).add_right _

theorem shiftIn_eq_shiftConcat (c : Stages) (bit : Bool) : shiftIn c bit = c.shiftConcat bit := by
  ext i hi
  cases i with
  | zero | succ _ => simp [shiftIn]

theorem shiftIn_toNat (c : Stages) (bit : Bool) : (shiftIn c bit).toNat = (2 * c.toNat + bit.toNat) % 2 ^ 12 := by
  rw [shiftIn_eq_shiftConcat, BitVec.toNat_shiftConcat, Nat.shiftLeft_eq, Nat.pow_one, Nat.mul_comm]

/-! ## A sequence of SHIFTs -/

/-- The state after new values of `dl` and `chain` and a pulse of the shift clock, all that a SHIFT writes (R142). -/
def withShifted (s : State) (dl : Byte) (chain : Vector Stages 8) : State :=
  { s with dl := dl, chain := chain, sclk := false }

theorem withShifted_withShifted (s : State) (dl dl' : Byte) (chain chain' : Vector Stages 8) :
    withShifted (withShifted s dl chain) dl' chain' = withShifted s dl' chain' := rfl

theorem shiftChains_eq_withShifted (d : Byte) (s : State) :
    shiftChains d s = withShifted s d (eachOfEight fun l => shiftIn s.chain[l] d[l]) := rfl

theorem shiftAll_cons (d : Byte) (ds : List Byte) (s : State) : shiftAll (d :: ds) s = shiftAll ds (shiftChains d s) := rfl

theorem shiftChains_chain_toNat (d : Byte) (s : State) (l : Fin 8) :
    (shiftChains d s).chain[l].toNat = (2 * s.chain[l].toNat + (d.getLsbD l.val).toNat) % 2 ^ 12 := by
  rw [shiftChains_eq_withShifted, withShifted, eachOfEight_get, shiftIn_toNat]
  rfl

/-- After any number of SHIFTs a chain holds the low twelve digits of its old bits followed by the line's bits. -/
theorem shiftAll_chain_toNat (ds : List Byte) (s : State) (l : Fin 8) :
    (shiftAll ds s).chain[l].toNat = bitsAfter l s.chain[l].toNat ds % 2 ^ 12 := by
  induction ds generalizing s with
  | nil => exact (Nat.mod_eq_of_lt s.chain[l].isLt).symm
  | cons d ds ih => rw [shiftAll_cons, ih, shiftChains_chain_toNat, bitsAfter_mod, bitsAfter_cons]

/-- SHIFTs leave their last operand on the lines and, but for the chains and the released clock, all else as it was. -/
theorem shiftAll_cons_eq_withShifted (d : Byte) (ds : List Byte) (s : State) :
    ∃ chain, shiftAll (d :: ds) s = withShifted s ((d :: ds).getLast (List.cons_ne_nil d ds)) chain := by
  induction ds generalizing d s with
  | nil => exact ⟨_, shiftChains_eq_withShifted d s⟩
  | cons e es ih =>
    obtain ⟨chain, h⟩ := ih e (shiftChains d s)
    exact ⟨chain, by
      rw [shiftAll_cons, h, shiftChains_eq_withShifted, withShifted_withShifted,
        List.getLast_cons (List.cons_ne_nil e es)]⟩

theorem execAll_shifts_append (ds : List Byte) (is : List Instr) (s : State) :
    execAll (ds.map Instr.shift ++ is) s = execAll is (shiftAll ds s) := by
  induction ds generalizing s with
  | nil => rfl
  | cons d ds ih => exact (execAll_cons _ rfl).trans (ih (shiftChains d s))

theorem latchChains_latch (s : State) : (latchChains s).latch = s.chain := rfl

theorem latchChains_chain (s : State) : (latchChains s).chain = s.chain := rfl

/-- SHIFTs and then a LATCH write only the chains, the outputs and the lines, and release the clock and the latch line. -/
theorem latchChains_withShifted_frame (s : State) (dl : Byte) (chain : Vector Stages 8) {t : State}
    (h : latchChains (withShifted s dl chain) = t) :
    t.dl = dl ∧ t.sclk = false ∧ t.lat = false ∧ SameRing s t ∧ t.cfg = s.cfg ∧ t.dcode = s.dcode ∧
      t.results = s.results ∧ SameControl s t := by
  subst h
  rw [latchChains_eq]
  exact ⟨rfl, rfl, rfl, ⟨rfl, rfl, fun _ => rfl⟩, rfl, rfl, rfl, sameControl_refl s⟩

/-- Settles O47: a LATCH shows what the SHIFTs left in the chains, the old bits with the new ones after them. -/
theorem partialLatchMixesOldAndNew : Obligations.PartialLatchMixesOldAndNew := by
  unfold Obligations.PartialLatchMixesOldAndNew
  intro ds s _
  refine ⟨latchChains (shiftAll ds s), execAll_shifts_append ds [.latch] s, fun l => ?_⟩
  rw [latchChains_latch, shiftAll_chain_toNat, bitsAfter_eq_add]
  rfl

/-! ## The operands of a SHOW -/

theorem shiftOperand_getLsbD (codes : Fin 8 → Codeword) (b : Nat) (l : Fin 8) :
    (shiftOperand codes b).getLsbD l.val = (codes l).getLsbD b :=
  (BitVec.getLsbD_eq_getElem l.isLt).trans (lineByte_get _ l)

theorem bitOrder_eq : bitOrder = (List.range 12).reverse := by decide

/-- Operands that carry bits `k - 1` down to 0 of each line's codeword spell its low `k` bits. -/
theorem bitsAfter_shiftOperands (codes : Fin 8 → Codeword) (l : Fin 8) (k : Nat) :
    bitsAfter l 0 ((List.range k).reverse.map (shiftOperand codes)) = (codes l).toNat % 2 ^ k := by
  induction k with
  | zero => simp [bitsAfter, Nat.mod_one]
  | succ k ih =>
    rw [List.range_succ, List.reverse_concat, List.map_cons, bitsAfter_cons, bitsAfter_eq_add, ih, shiftOperand_getLsbD,
      Nat.mod_pow_succ, ← Nat.toNat_testBit, BitVec.testBit_toNat, List.length_map, List.length_reverse,
      List.length_range]
    ring

theorem showOperands_length (s : State) : (showOperands s).length = 12 := rfl

/-- The twelve SHIFTs of a SHOW leave a line's codeword in its chain, whatever the chain held (R144). -/
theorem shiftAll_showOperands_chain (s : State) (l : Fin 8) :
    (shiftAll (showOperands s) s).chain[l] = (physicalCode s l).setWidth 12 := by
  apply BitVec.eq_of_toNat_eq
  rw [shiftAll_chain_toNat, bitsAfter_eq_add, showOperands_length, Nat.mul_add_mod', showOperands, bitOrder_eq,
    bitsAfter_shiftOperands, Nat.mod_mod, BitVec.toNat_setWidth]

/-- The last operand of a SHOW carries bit 0 of each line's codeword (R140). -/
theorem shiftAll_showOperands_eq_withShifted (s : State) :
    ∃ chain, shiftAll (showOperands s) s = withShifted s (shiftOperand (physicalCode s) 0) chain :=
  shiftAll_cons_eq_withShifted _ _ s

theorem physicalCode_of_line {p l : Fin 8} (s : State) (h : l.val = 7 - p.val) : physicalCode s l = finalCode s p := by
  obtain rfl : l = reversed p := Fin.ext h
  rw [physicalCode, reversed_reversed]

/-- Settles O44: the chains hold the codewords of their lines when the LATCH comes, and a SHIFT or LATCH writes nothing but
the chains, the outputs and the lines. -/
theorem showPresentsTheFinalCodes : Obligations.ShowPresentsTheFinalCodes := by
  unfold Obligations.ShowPresentsTheFinalCodes
  intro s
  obtain ⟨chain, hshifted⟩ := shiftAll_showOperands_eq_withShifted s
  obtain ⟨hdl, hframe⟩ := latchChains_withShifted_frame s _ chain (congrArg latchChains hshifted.symm)
  refine ⟨latchChains (shiftAll (showOperands s) s), rfl, ?lines, hframe⟩
  case lines =>
    intro p l hl
    have hchain := shiftAll_showOperands_chain s l
    rw [latchChains_latch, latchChains_chain, hdl, shiftOperand_getLsbD, ← physicalCode_of_line s hl]
    exact ⟨hchain, hchain, rfl⟩

end Sys2Proof.Proofs
end

section
/-! PROOFS. The text operands of the display command surface: the character map, the symbol of each byte, and the loads of
an expansion (44_render.md R160 to R163). -/

namespace Sys2Proof.Proofs

open Sys2Proof Sys2Proof.Machine

/-! ## The character map (R161) -/

theorem charSymbol_digit (d : Fin 10) : charSymbol (BitVec.ofNat 8 (0x30 + d.val)) = .digit d := by
  have hd := d.isLt
  have value : (BitVec.ofNat 8 (0x30 + d.val)).toNat = 0x30 + d.val := by
    rw [BitVec.toNat_ofNat]
    omega
  have inRange : 0x30 ≤ 0x30 + d.val ∧ 0x30 + d.val ≤ 0x39 := by omega
  simp [charSymbol, value, inRange]

@[simp] theorem charSymbol_dot : charSymbol 0x2E#8 = .dot := rfl

theorem charSymbol_of_not_digit_of_not_dot {c : Byte} (hdigit : c.toNat < 0x30 ∨ 0x39 < c.toNat) (hdot : c ≠ 0x2E#8) :
    charSymbol c = .blank := by
  have outside : ¬ (0x30 ≤ c.toNat ∧ c.toNat ≤ 0x39) := by omega
  rw [charSymbol, dif_neg outside, if_neg hdot]

/-- Settles O53: the three branches of the map, each on its own bytes. -/
theorem characterMap : Obligations.CharacterMap := by
  unfold Obligations.CharacterMap
  exact ⟨charSymbol_digit, charSymbol_dot, fun _ => charSymbol_of_not_digit_of_not_dot⟩

/-! ## The symbols of a text (R160) -/

/-- The symbol of byte `c` at index `p`: a requested leading minus is the sign, any other byte goes by the character map. -/
def textSymbolAt (sign : Bool) (p : Nat) (c : Byte) : Symbol :=
  if p = 0 ∧ sign = true ∧ c = 0x2D#8 then .sign else charSymbol c

@[simp] theorem textSymbolAt_not_requested (p : Nat) : textSymbolAt false p = charSymbol := by
  funext c
  simp [textSymbolAt]

@[simp] theorem textSymbolAt_succ (sign : Bool) (p : Nat) : textSymbolAt sign (p + 1) = charSymbol := by
  funext c
  simp [textSymbolAt]

@[simp] theorem textSymbolAt_dot (sign : Bool) (p : Nat) : textSymbolAt sign p 0x2E#8 = .dot := by
  simp [textSymbolAt]

/-- With the sign requested, only the head of the body can differ from the character map. -/
theorem textSymbols_cons {s rest : List Byte} {c : Byte} (h : textBody s = c :: rest) :
    textSymbols s true = textSymbolAt true 0 c :: rest.map charSymbol := by
  by_cases hminus : c = 0x2D#8 <;> simp [textSymbols, textSymbolAt, h, hminus]

/-- Each byte of the body gives the symbol at its own index. -/
theorem textSymbols_getElem? (s : List Byte) (sign : Bool) (p : Nat) :
    (textSymbols s sign)[p]? = (textBody s)[p]?.map (textSymbolAt sign p) := by
  cases sign with
  | false => simp [textSymbols]
  | true =>
    cases hbody : textBody s with
    | nil => simp [textSymbols, hbody]
    | cons c rest =>
      rw [textSymbols_cons hbody]
      cases p with
      | zero => rfl
      | succ p => simp

theorem textBody_eq_self {s : List Byte} (h : ∀ c ∈ s, c ≠ 0x00#8) : textBody s = s := by
  rw [textBody, List.takeWhile_eq_self_iff]
  simpa using h

/-! ## The loads of an expansion -/

/-- Position `p` is loaded by operation `p` of an expansion. -/
theorem loadAndShow_getElem? (syms : List Symbol) {p : Nat} (hp : p < 8) :
    (loadAndShow syms)[p]? = some (.loadpos (BitVec.ofNat 3 p) (symbolCode (syms.getD p .blank))) := by
  rw [loadAndShow, List.getElem?_append_left (by simpa using hp), List.getElem?_map, List.getElem?_range hp,
    Option.map_some]

theorem expand_text (s : List Byte) (sign : Bool) : expand (.text s sign) = .ok (loadAndShow (textSymbols s sign)) := rfl

theorem expand_numeric (s : List Byte) : expand (.numeric s) = expand (.text s true) := rfl

theorem expand_decimal (s : List Byte) : expand (.decimal s) = expand (.text s true) := rfl

/-- Settles O54. -/
theorem numericFormIsText : Obligations.NumericFormIsText := by
  unfold Obligations.NumericFormIsText
  exact expand_numeric

/-- Settles O55: a dot's position in the text is its index in the symbols, and so the position that loads it. -/
theorem decimalFormIsText : Obligations.DecimalFormIsText := by
  unfold Obligations.DecimalFormIsText
  intro s
  refine ⟨loadAndShow (textSymbols s true), expand_decimal s, expand_text s true, ?dots⟩
  case dots =>
    intro p hp hbody hdot
    have symbol : (textSymbols s true)[p]? = some .dot := by
      rw [textSymbols_getElem?, textBody_eq_self hbody, hdot, Option.map_some, textSymbolAt_dot]
    rw [loadAndShow_getElem? _ hp, List.getD_eq_getElem?_getD, symbol, Option.getD_some]

end Sys2Proof.Proofs
end

section
/-! PROOFS. Reset and the outputs (70_reset_and_hazards.md R200, R205). One law says what a step is: nothing to do, or the
next turn. The outputs are then followed from the operations and micro-steps through a command, a turn of each agent and a
step; the values of a reset are those of `State.resetWith`, which a restart and the power-on state both meet. -/

namespace Sys2Proof.Proofs

open Sys2Proof Sys2Proof.Machine

/-! ## What a step is -/

/-- In a configuration with a meaning, a step with a turn to take is that turn. -/
theorem step_eq_takeTurn {s : State} {turn : Turn} {rest : List Turn} (hconf : configurationRefusal s.params = none)
    (hturns : s.turns = turn :: rest) : step s = takeTurn turn (s.setTurns rest) := by
  rw [step, advance, hconf, hturns]

/-- A step that answers a next state had nothing to do or took a turn. -/
theorem step_cases {s t : State} (h : step s = .next t) :
    (s.turns = [] ∧ t = s) ∨ ∃ turn rest, s.turns = turn :: rest ∧ takeTurn turn (s.setTurns rest) = .next t := by
  cases hconf : configurationRefusal s.params with
  | some why => simp [step, advance, hconf] at h
  | none =>
    cases hturns : s.turns with
    | nil =>
      rw [step, advance, hconf, hturns] at h
      cases h
      exact .inl ⟨rfl, rfl⟩
    | cons turn rest => exact .inr ⟨turn, rest, rfl, step_eq_takeTurn hconf hturns ▸ h⟩

/-! ## Where the outputs can change (R205) -/

/-- POP, whole or its first micro-step, leaves the outputs as they were. -/
theorem exec_pop_keeps_latch (s : State) : ∃ t, exec .pop s = .next t ∧ t.latch = s.latch := by
  rw [exec, execPop, popAtomic_eq]
  split_ifs <;> exact ⟨_, rfl, rfl⟩

/-- AVAIL, whole or its first micro-step, leaves the outputs as they were. -/
theorem exec_avail_keeps_latch (s : State) : ∃ t, exec .avail s = .next t ∧ t.latch = s.latch := by
  rw [exec, execAvail]
  split_ifs <;> exact ⟨_, rfl, rfl⟩

/-- LOADPOS, of a symbol or refused, leaves the outputs as they were. -/
theorem exec_loadpos_keeps_latch (pos : BitVec 3) (sym : BitVec 4) (s : State) :
    ∃ t, exec (.loadpos pos sym) s = .next t ∧ t.latch = s.latch := by
  rw [exec, execLoadpos]
  split <;> exact ⟨_, rfl, rfl⟩

theorem exec_keeps_latch {i : Instr} (s : State) (hlatch : i ≠ .latch) (hshow : i ≠ .showOut) :
    ∃ t, exec i s = .next t ∧ t.latch = s.latch := by
  cases i with
  | push b =>
    obtain ⟨r, buf, w, h⟩ := exec_push_eq_withRing b s
    exact ⟨_, h, rfl⟩
  | pop => exact exec_pop_keeps_latch s
  | avail => exact exec_avail_keeps_latch s
  | setcfg en pol => exact ⟨_, rfl, rfl⟩
  | loadpos pos sym => exact exec_loadpos_keeps_latch pos sym s
  | showOut => exact absurd rfl hshow
  | shift d => exact ⟨_, rfl, rfl⟩
  | latch => exact absurd rfl hlatch

/-- The later micro-steps of a POP or an AVAIL leave the outputs as they were. -/
theorem microStep_keeps_latch (m : MicroOp) (s : State) : ∃ t, microStep m s = .next t ∧ t.latch = s.latch := by
  cases m with
  | popC2 rl => exact ⟨_, rfl, rfl⟩
  | popC3 rl wl =>
    rw [microStep]
    split_ifs <;> exact ⟨_, rfl, rfl⟩
  | popC4 rl =>
    rw [microStep, publishedRead, memRead_slotOf]
    split_ifs <;> exact ⟨_, rfl, rfl⟩
  | popC5 rl v => exact ⟨_, rfl, rfl⟩
  | popC6 v => exact ⟨_, rfl, rfl⟩
  | availA2 wl => exact ⟨_, rfl, rfl⟩
  | availA3 wl rl => exact ⟨_, rfl, rfl⟩

/-- A command that changes the outputs is a LATCH or a SHOW; a refused one changes nothing but the mark. -/
theorem decode_of_runCommand_latch_ne {cmd : Command} {port : Port} {s t : State}
    (h : runCommand cmd port s = .next t) (hne : t.latch ≠ s.latch) :
    decode cmd port = .ok .latch ∨ decode cmd port = .ok .showOut := by
  rw [runCommand] at h
  cases hdec : decode cmd port with
  | error e =>
    rw [hdec] at h
    cases h
    exact absurd rfl hne
  | ok i =>
    rw [hdec] at h
    by_contra hother
    obtain ⟨hlatch, hshow⟩ := not_or.mp hother
    obtain ⟨u, hu, hkept⟩ := exec_keeps_latch s (fun hi => hlatch (congrArg _ hi)) (fun hi => hshow (congrArg _ hi))
    obtain rfl : u = t := Host.Outcome.next.inj (hu.symm.trans h)
    exact hne hkept

/-- The interrupt context only pushes, so its turns leave the outputs as they were. -/
theorem producerTurn_keeps_latch {s t : State} (h : producerTurn s = .next t) : t.latch = s.latch := by
  rw [producerTurn] at h
  cases hport : s.producerPort with
  | nil =>
    rw [hport] at h
    cases h
    rfl
  | cons cmd rest =>
    rw [hport] at h
    by_contra hne
    rcases decode_of_runCommand_latch_ne h hne with hdec | hdec
    · obtain ⟨_, ⟨⟩⟩ := decode_producer_eq_push hdec
    · obtain ⟨_, ⟨⟩⟩ := decode_producer_eq_push hdec

/-- A pseudo-operation is replaced or refused, and neither touches the outputs. -/
theorem runRequest_pseudo_keeps_latch {p : Pseudo} {s t : State} (h : runRequest (.pseudo p) s = .next t) :
    t.latch = s.latch := by
  rw [runRequest] at h
  split at h <;> cases h <;> rfl

/-- A foreground turn that changes the outputs issues a LATCH or a SHOW. -/
theorem foregroundTurn_of_latch_ne {s t : State} (h : foregroundTurn s = .next t) (hne : t.latch ≠ s.latch) :
    ∃ cmd rest, s.inFlight = none ∧ s.foregroundPort = .command cmd :: rest ∧
      (decode cmd .foreground = .ok .latch ∨ decode cmd .foreground = .ok .showOut) := by
  rw [foregroundTurn] at h
  cases hflight : s.inFlight with
  | some m =>
    rw [hflight] at h
    obtain ⟨u, hu, hkept⟩ := microStep_keeps_latch m s
    obtain rfl : u = t := Host.Outcome.next.inj (hu.symm.trans h)
    exact absurd hkept hne
  | none =>
    cases hport : s.foregroundPort with
    | nil =>
      rw [hflight, hport] at h
      cases h
      exact absurd rfl hne
    | cons req rest =>
      rw [hflight, hport] at h
      cases req with
      | command cmd => exact ⟨cmd, rest, rfl, rfl, decode_of_runCommand_latch_ne h hne⟩
      | pseudo p => exact absurd (runRequest_pseudo_keeps_latch h) hne

/-- Settles O48: no operation but LATCH and SHOW writes the outputs, and of the turns only a restart and a foreground turn
with one of these two commands does more than run such an operation. -/
theorem outputsChangeOnlyAtLatch : Obligations.OutputsChangeOnlyAtLatch := by
  unfold Obligations.OutputsChangeOnlyAtLatch
  refine ⟨fun i s => exec_keeps_latch s, fun s t hstep hne => ?step⟩
  case step =>
    rcases step_cases hstep with ⟨-, rfl⟩ | ⟨turn, ts, hturns, hturn⟩
    · exact absurd rfl hne
    · rw [hturns, List.head?_cons]
      cases turn with
      | producer => exact absurd (producerTurn_keeps_latch hturn) hne
      | foreground =>
        obtain ⟨cmd, rest, hissued⟩ := foregroundTurn_of_latch_ne hturn hne
        exact .inr ⟨cmd, rest, rfl, hissued⟩
      | restart => exact .inl rfl

/-! ## The values of a reset (R200) -/

/-- A ring whose indices are both 0 is empty. -/
theorem isEmpty_of_indices_zero {s : State} (hw : s.w = 0) (hr : s.r = 0) : isEmpty s = true := by
  rw [isEmpty, hw, hr, beq_self_eq_true]

/-- A ring whose indices are both 0 holds nothing, and its capacity is at least 1. -/
theorem isFull_of_indices_zero {s : State} (hw : s.w = 0) (hr : s.r = 0) : isFull s = false := by
  have hcount : availCount s = 0 := by
    rw [availCount, hw, hr]
    exact (availOf_eq_zero s.params 0 0 (indexModulus_pos _) (indexModulus_pos _)).mpr rfl
  have hcap := capacity_pos s.params
  rw [Bool.eq_false_iff, ne_eq, isFull_iff]
  omega

/-- Every slot of the ring reads as its draw after a reset. -/
theorem read_resetWith_buf (p : Params) (d : Draws) {a : Nat} (ha : a < capacity p) :
    Memory.read (State.resetWith p d).buf a = d.slot a := by
  rw [State.resetWith_buf, read_drawnSlots]
  exact if_pos ha

/-- Settles O14: a restart differs from `State.resetWith` in the model's own fields only, and the power-on state in the
form of its memory, which lists nothing where every draw is what an unlisted slot reads as. -/
theorem resetValues : Obligations.ResetValues := by
  unfold Obligations.ResetValues
  intro isReset
  have resetWith_isReset : ∀ p d, isReset (State.resetWith p d) p d := fun p d =>
    ⟨rfl, rfl, rfl, fun _ => read_resetWith_buf p d, configEn_configWord _ _, configPol_configWord _ _,
      eachOfEight_get _, fun l => ⟨eachOfEight_get d.chain l, eachOfEight_get d.latch l⟩, rfl, rfl,
      isEmpty_of_indices_zero rfl rfl, isFull_of_indices_zero rfl rfl⟩
  refine ⟨resetWith_isReset, fun s hconf hhead => ?restart, Draws.zero, ?powerOn⟩
  case restart =>
    obtain ⟨rest, hturns⟩ := List.head?_eq_some_iff.mp hhead
    exact ⟨restart (s.setTurns rest), freeDraws (s.setTurns rest), step_eq_takeTurn hconf hturns,
      resetWith_isReset s.params (freeDraws (s.setTurns rest))⟩
  case powerOn =>
    obtain ⟨hparams, hw, hr, -, hen, hpol, hdcode, hlines, hdl, hrefused, -⟩ :=
      resetWith_isReset Params.shipped Draws.zero
    exact ⟨hparams, hw, hr, fun a _ => Memory.read_nil a, hen, hpol, hdcode, hlines, hdl, hrefused,
      isEmpty_of_indices_zero rfl rfl, isFull_of_indices_zero rfl rfl⟩

end Sys2Proof.Proofs
end

section
/-! PROOFS. The encoder against the decoder (30_encoding.md R71 to R73, R76, R82). A word is what its row's mask keeps
of it together with what its fields keep of it, so the match and the fields determine the word; and each field of an
operation's word is read back as the operand it was put together from. -/

namespace Sys2Proof.Proofs

open Sys2Proof Sys2Proof.Machine Sys2Proof.Laws

/-! ## What it takes for a word to decode (R81) -/

/-- A word decodes exactly when its row accepts it: match, port and symbol. -/
theorem decode_eq_ok_iff (cmd : Command) (port : Port) (i : Instr) :
    decode cmd port = .ok i ↔ ∃ row, rowOf cmd = some row ∧ cmd &&& row.mask = row.bits ∧ port = row.port ∧
      ¬(opField cmd = 0x5#4 ∧ reservedSymbol (symField cmd) = true) ∧ row.build cmd = i := by
  unfold decode
  cases hrow : rowOf cmd with
  | none => simp
  | some row =>
    simp only [Option.some.injEq, exists_eq_left']
    split_ifs with hmatch hport hsym
    · simp [hmatch]
    · simp [hport]
    · simp [hsym]
    · simp only [Except.ok.injEq]
      exact ⟨fun hi => ⟨not_not.1 hmatch, not_not.1 hport, hsym, hi⟩, fun ⟨_, _, _, hi⟩ => hi⟩

/-! ## The fields of an operation's word (R72) -/

/-- The opcode of an operation (R71). -/
def opcodeOf : Instr → BitVec 4
  | .push _ => 0x1#4
  | .pop => 0x2#4
  | .avail => 0x3#4
  | .setcfg _ _ => 0x4#4
  | .loadpos _ _ => 0x5#4
  | .showOut => 0x6#4
  | .shift _ => 0x7#4
  | .latch => 0x8#4

theorem opField_encode (i : Instr) : opField (encode i) = opcodeOf i := by
  ext j hj
  cases i with
  | push _ | setcfg _ _ | loadpos _ _ | shift _ => interval_cases j <;> simp [opField, encode, opcodeOf]
  | pop | avail | showOut | latch => interval_cases j <;> rfl

theorem dataField_encode_push (data : Byte) : dataField (encode (.push data)) = data := by
  ext j hj
  interval_cases j <;> simp [dataField, encode]

theorem dataField_encode_shift (data : Byte) : dataField (encode (.shift data)) = data := by
  ext j hj
  interval_cases j <;> simp [dataField, encode]

theorem dataField_encode_setcfg (en : Byte) (pol : BitVec 1) : dataField (encode (.setcfg en pol)) = en := by
  ext j hj
  interval_cases j <;> simp [dataField, encode]

theorem polField_encode_setcfg (en : Byte) (pol : BitVec 1) : polField (encode (.setcfg en pol)) = pol := by
  ext j hj
  interval_cases j
  simp [polField, encode]

theorem posField_encode_loadpos (pos : BitVec 3) (sym : BitVec 4) : posField (encode (.loadpos pos sym)) = pos := by
  ext j hj
  interval_cases j <;> simp [posField, encode]

theorem symField_encode_loadpos (pos : BitVec 3) (sym : BitVec 4) : symField (encode (.loadpos pos sym)) = sym := by
  ext j hj
  interval_cases j <;> simp [symField, encode]

/-- Every operation's word has the mask and match of its table row. -/
theorem encode_matches_row (i : Instr) : EncodingMatchesRow.Statement i := by
  cases i with
  | push data => exact EncodingMatchesRow.push data
  | pop => exact EncodingMatchesRow.pop
  | avail => exact EncodingMatchesRow.avail
  | setcfg en pol => exact EncodingMatchesRow.setcfg en pol
  | loadpos pos sym => exact EncodingMatchesRow.loadpos pos sym
  | showOut => exact EncodingMatchesRow.showOut
  | shift data => exact EncodingMatchesRow.shift data
  | latch => exact EncodingMatchesRow.latch

/-- Only a LOADPOS carries a symbol code, and a well-formed one carries none that is reserved (R76). -/
theorem not_reservedSymbol_of_wellFormed {i : Instr} (h : i.wellFormed = true) :
    ¬(opcodeOf i = 0x5#4 ∧ reservedSymbol (symField (encode i)) = true) := by
  cases i with
  | loadpos pos sym =>
    rw [symField_encode_loadpos]
    simpa [opcodeOf, Instr.wellFormed] using h
  | push _ | pop | avail | setcfg _ _ | showOut | shift _ | latch => simp [opcodeOf]

/-- The row of an operation: found by its opcode, with its mask and match, its port, and fields that give it back. -/
theorem row_of_instr (i : Instr) : ∃ row, (opcodeMap.find? fun row => row.op == opcodeOf i) = some row ∧
    (row.mask, row.bits) = tableMaskMatch i ∧ portOf i = row.port ∧ row.build (encode i) = i := by
  cases i with
  | push data => exact ⟨_, rfl, rfl, rfl, congrArg Instr.push (dataField_encode_push data)⟩
  | pop => exact ⟨_, rfl, rfl, rfl, rfl⟩
  | avail => exact ⟨_, rfl, rfl, rfl, rfl⟩
  | setcfg en pol =>
    exact ⟨_, rfl, rfl, rfl, congrArg₂ Instr.setcfg (dataField_encode_setcfg en pol) (polField_encode_setcfg en pol)⟩
  | loadpos pos sym =>
    exact ⟨_, rfl, rfl, rfl,
      congrArg₂ Instr.loadpos (posField_encode_loadpos pos sym) (symField_encode_loadpos pos sym)⟩
  | showOut => exact ⟨_, rfl, rfl, rfl, rfl⟩
  | shift data => exact ⟨_, rfl, rfl, rfl, congrArg Instr.shift (dataField_encode_shift data)⟩
  | latch => exact ⟨_, rfl, rfl, rfl, rfl⟩

/-- Settles O1: the operation's word finds the operation's row, passes its checks, and its fields are the operands. -/
theorem decodeOfEncode : Obligations.DecodeOfEncode := by
  unfold Obligations.DecodeOfEncode
  intro i hwf
  obtain ⟨row, hfind, hbits, hport, hbuild⟩ := row_of_instr i
  have hmatch : encode i &&& row.mask = row.bits := by
    have h := encode_matches_row i
    rwa [EncodingMatchesRow.Statement, ← hbits] at h
  refine (decode_eq_ok_iff _ _ _).2 ⟨row, ?_, hmatch, hport, ?_, hbuild⟩
  · rw [rowOf, opField_encode, hfind]
  · rw [opField_encode]
    exact not_reservedSymbol_of_wellFormed hwf

/-! ## A word from its match and its fields -/

theorem setWidth_dataField (cmd : Command) : (dataField cmd).setWidth 16 = cmd &&& 0x00FF#16 := by
  ext j hj
  interval_cases j <;> simp [dataField]

theorem setWidth_polField (cmd : Command) : (polField cmd).setWidth 16 <<< 8 = cmd &&& 0x0100#16 := by
  ext j hj
  interval_cases j <;> simp [polField]

theorem setWidth_posField (cmd : Command) : (posField cmd).setWidth 16 <<< 4 = cmd &&& 0x0070#16 := by
  ext j hj
  interval_cases j <;> simp [posField]

theorem setWidth_symField (cmd : Command) : (symField cmd).setWidth 16 = cmd &&& 0x000F#16 := by
  ext j hj
  interval_cases j <;> simp [symField]

/-- A word is what a mask and the rest of the bits keep of it. -/
theorem and_or_and_eq_self (cmd mask rest : Command) (h : mask ||| rest = BitVec.allOnes 16) :
    (cmd &&& mask) ||| (cmd &&& rest) = cmd := by
  rw [← BitVec.and_or_distrib_left, h, BitVec.and_allOnes]

/-- The match of a row with a data byte, joined with that byte. -/
theorem encode_build_data {cmd bits : Command} (hmatch : cmd &&& 0xFF00#16 = bits) :
    bits ||| (dataField cmd).setWidth 16 = cmd := by
  rw [setWidth_dataField, ← hmatch]
  exact and_or_and_eq_self _ _ _ rfl

/-- A word that matches a row is the word of the operation the row builds from it (R71, R73). -/
theorem encode_build {cmd : Command} {row : OpcodeRow} (hmem : row ∈ opcodeMap) (hmatch : cmd &&& row.mask = row.bits) :
    encode (row.build cmd) = cmd := by
  simp only [opcodeMap, List.mem_cons, List.not_mem_nil, or_false] at hmem
  have noField (h : cmd &&& 0xFFFF#16 = row.bits) : row.bits = cmd := h.symm.trans BitVec.and_allOnes
  rcases hmem with rfl | rfl | rfl | rfl | rfl | rfl | rfl | rfl
  · exact encode_build_data hmatch
  · exact noField hmatch
  · exact noField hmatch
  · rw [encode, setWidth_dataField, setWidth_polField, ← show _ = 0x4000#16 from hmatch, BitVec.or_assoc,
      ← BitVec.and_or_distrib_left]
    exact and_or_and_eq_self _ _ _ rfl
  · rw [encode, setWidth_posField, setWidth_symField, ← show _ = 0x5000#16 from hmatch, BitVec.or_assoc,
      ← BitVec.and_or_distrib_left]
    exact and_or_and_eq_self _ _ _ rfl
  · exact noField hmatch
  · exact encode_build_data hmatch
  · exact noField hmatch

/-- A row builds operations of its own port, well-formed but for a reserved symbol (R76). -/
theorem build_port_wellFormed {cmd : Command} {row : OpcodeRow} (hmem : row ∈ opcodeMap) :
    portOf (row.build cmd) = row.port ∧
      (¬(row.op = 0x5#4 ∧ reservedSymbol (symField cmd) = true) → (row.build cmd).wellFormed = true) := by
  simp only [opcodeMap, List.mem_cons, List.not_mem_nil, or_false] at hmem
  rcases hmem with rfl | rfl | rfl | rfl | rfl | rfl | rfl | rfl <;> simp [portOf, Instr.wellFormed]

/-- Settles O2: the row that accepts a word builds an operation whose word it is. -/
theorem encodeOfDecode : Obligations.EncodeOfDecode := by
  unfold Obligations.EncodeOfDecode
  intro cmd port i hdec
  obtain ⟨row, hrow, hmatch, hport, hsym, rfl⟩ := (decode_eq_ok_iff _ _ _).1 hdec
  obtain ⟨hmem, hop⟩ := rowOf_eq_some hrow
  obtain ⟨hbuilt, hwf⟩ := build_port_wellFormed (cmd := cmd) hmem
  exact ⟨encode_build hmem hmatch, hbuilt.trans hport.symm, hwf (hop ▸ hsym)⟩

/-- Settles O4: eight closed instances of the decoder. -/
theorem writtenWordsDecode : Obligations.WrittenWordsDecode := by
  unfold Obligations.WrittenWordsDecode
  decide

end Sys2Proof.Proofs
end

section
/-! PROOFS. What a step can do, and the invariant (10_state.md R22 to R32, 60_exceptions.md R180, R181,
70_reset_and_hazards.md R202, R213). Every operation and every micro-step answers a next state, and leaves the
parameters and, but for a refusal, the mark as they were; the invariant is followed through each of them to a turn and
a step. -/

namespace Sys2Proof.Proofs

open Sys2Proof Sys2Proof.Machine

/-! ## What every operation and micro-step leaves (R180, R181, R202) -/

/-- The parameters are the same, and the refusal mark is set exactly if it was or `marked` holds. -/
def MarksOnly (marked : Bool) (s t : State) : Prop := t.params = s.params ∧ t.refused = (s.refused || marked)

theorem marksOnly_false {s t : State} (hparams : t.params = s.params) (hrefused : t.refused = s.refused) :
    MarksOnly false s t := ⟨hparams, by rw [hrefused, Bool.or_false]⟩

theorem marksOnly_refuse (s : State) : MarksOnly true s (refuse s) := ⟨rfl, (Bool.or_true _).symm⟩

theorem exec_pop_frame (s : State) : ∃ t, exec .pop s = .next t ∧ MarksOnly false s t := by
  rw [exec, execPop, popAtomic_eq]
  split_ifs <;> exact ⟨_, rfl, marksOnly_false rfl rfl⟩

theorem exec_avail_frame (s : State) : ∃ t, exec .avail s = .next t ∧ MarksOnly false s t := by
  rw [exec, execAvail]
  split_ifs <;> exact ⟨_, rfl, marksOnly_false rfl rfl⟩

theorem exec_loadpos_frame (pos : BitVec 3) (sym : BitVec 4) (s : State) :
    ∃ t, exec (.loadpos pos sym) s = .next t ∧ MarksOnly (reservedSymbol sym) s t := by
  rw [exec, execLoadpos]
  cases hsym : symbolOf sym with
  | none =>
    rw [(symbolOf_eq_none_iff sym).1 hsym]
    exact ⟨_, rfl, marksOnly_refuse s⟩
  | some y =>
    have hnot : reservedSymbol sym = false := by
      rw [Bool.eq_false_iff, ne_eq, ← symbolOf_eq_none_iff, hsym]
      simp
    rw [hnot]
    exact ⟨_, rfl, marksOnly_false rfl rfl⟩

/-- SHIFTs write the lines, the chains and the clock. -/
theorem shiftAll_eq_withShifted (ds : List Byte) (s : State) :
    shiftAll ds s = s ∨ ∃ dl chain, shiftAll ds s = withShifted s dl chain := by
  cases ds with
  | nil => exact .inl rfl
  | cons d ds => exact .inr ⟨_, shiftAll_cons_eq_withShifted d ds s⟩

/-- An operation answers a next state; it sets the refusal mark if it is ill-formed, and changes no parameter. -/
theorem exec_frame (i : Instr) (s : State) : ∃ t, exec i s = .next t ∧ MarksOnly (!i.wellFormed) s t := by
  cases i with
  | push b =>
    obtain ⟨r, buf, w, h⟩ := exec_push_eq_withRing b s
    exact ⟨_, h, marksOnly_false rfl rfl⟩
  | pop => exact exec_pop_frame s
  | avail => exact exec_avail_frame s
  | setcfg en pol => exact ⟨_, rfl, marksOnly_false rfl rfl⟩
  | loadpos pos sym =>
    rw [Instr.wellFormed, Bool.not_not]
    exact exec_loadpos_frame pos sym s
  | showOut =>
    obtain ⟨chain, h⟩ := shiftAll_showOperands_eq_withShifted s
    exact ⟨_, rfl, by rw [h]; exact marksOnly_false rfl rfl⟩
  | shift d => exact ⟨_, rfl, marksOnly_false rfl rfl⟩
  | latch => exact ⟨_, rfl, marksOnly_false rfl rfl⟩

theorem microStep_frame (m : MicroOp) (s : State) : ∃ t, microStep m s = .next t ∧ MarksOnly false s t := by
  cases m with
  | popC3 rl wl =>
    rw [microStep]
    split_ifs <;> exact ⟨_, rfl, marksOnly_false rfl rfl⟩
  | popC4 rl =>
    rw [microStep, publishedRead, memRead_slotOf]
    split_ifs <;> exact ⟨_, rfl, marksOnly_false rfl rfl⟩
  | popC2 _ | popC5 _ _ | popC6 _ | availA2 _ | availA3 _ _ => exact ⟨_, rfl, marksOnly_false rfl rfl⟩

/-! ## Commands and requests -/

theorem runCommand_of_ok {cmd : Command} {port : Port} {i : Instr} (s : State) (h : decode cmd port = .ok i) :
    runCommand cmd port s = exec i s := by rw [runCommand, h]

theorem runCommand_of_error {cmd : Command} {port : Port} {e : RefuseReason} (s : State)
    (h : decode cmd port = .error e) : runCommand cmd port s = .next (refuse s) := by rw [runCommand, h]

theorem runRequest_of_ok {p : Pseudo} {is : List Instr} (s : State) (h : expand p = .ok is) :
    runRequest (.pseudo p) s =
      .next (s.setForegroundPort ((is.map fun i => Request.command (encode i)) ++ s.foregroundPort)) := by
  rw [runRequest, h]

theorem runRequest_of_error {p : Pseudo} {e : RefuseReason} (s : State) (h : expand p = .error e) :
    runRequest (.pseudo p) s = .next (refuse s) := by rw [runRequest, h]

/-- A command that decodes leaves the mark, since it is well-formed; one that is refused sets it (R181). -/
theorem runCommand_frame (cmd : Command) (port : Port) (s : State) : ∃ t, runCommand cmd port s = .next t ∧
    (((∃ i, decode cmd port = .ok i) ∧ MarksOnly false s t) ∨
      ((∃ e, decode cmd port = .error e) ∧ MarksOnly true s t)) := by
  cases hdec : decode cmd port with
  | error e => exact ⟨_, runCommand_of_error s hdec, .inr ⟨⟨e, rfl⟩, marksOnly_refuse s⟩⟩
  | ok i =>
    obtain ⟨-, -, hwf⟩ := encodeOfDecode cmd port i hdec
    obtain ⟨t, hexec, hmark⟩ := exec_frame i s
    rw [hwf] at hmark
    exact ⟨t, (runCommand_of_ok s hdec).trans hexec, .inl ⟨⟨i, rfl⟩, hmark⟩⟩

theorem runRequest_pseudo_frame (p : Pseudo) (s : State) : ∃ t, runRequest (.pseudo p) s = .next t ∧
    (((∃ is, expand p = .ok is) ∧ MarksOnly false s t) ∨ ((∃ e, expand p = .error e) ∧ MarksOnly true s t)) := by
  cases hexp : expand p with
  | error e => exact ⟨_, runRequest_of_error s hexp, .inr ⟨⟨e, rfl⟩, marksOnly_refuse s⟩⟩
  | ok is => exact ⟨_, runRequest_of_ok s hexp, .inl ⟨⟨is, rfl⟩, marksOnly_false rfl rfl⟩⟩

/-! ## Turns -/

theorem producerTurn_nil {s : State} (h : s.producerPort = []) : producerTurn s = .next s := by rw [producerTurn, h]

theorem producerTurn_cons {s : State} {cmd : Command} {rest : List Command} (h : s.producerPort = cmd :: rest) :
    producerTurn s = runCommand cmd .producer (s.setProducerPort rest) := by rw [producerTurn, h]

theorem foregroundTurn_some {s : State} {m : MicroOp} (h : s.inFlight = some m) :
    foregroundTurn s = microStep m s := by rw [foregroundTurn, h]

theorem foregroundTurn_nil {s : State} (hflight : s.inFlight = none) (h : s.foregroundPort = []) :
    foregroundTurn s = .next s := by rw [foregroundTurn, hflight, h]

theorem foregroundTurn_cons {s : State} {req : Request} {rest : List Request} (hflight : s.inFlight = none)
    (h : s.foregroundPort = req :: rest) : foregroundTurn s = runRequest req (s.setForegroundPort rest) := by
  rw [foregroundTurn, hflight, h]

/-- A refused command or pseudo-operation is the next that the agent of this turn has to issue. -/
def IssuesRefusal (turn : Turn) (s : State) : Prop :=
  (∃ cmd rest e, turn = .producer ∧ s.producerPort = cmd :: rest ∧ decode cmd .producer = .error e) ∨
  (∃ cmd rest e, turn = .foreground ∧ s.foregroundPort = .command cmd :: rest ∧ decode cmd .foreground = .error e) ∨
  (∃ p rest e, turn = .foreground ∧ s.foregroundPort = .pseudo p :: rest ∧ expand p = .error e)

/-- A turn of PRODUCER completes, and sets the mark only by a refused command. -/
theorem producerTurn_frame (s : State) : ∃ t, producerTurn s = .next t ∧
    (MarksOnly false s t ∨ IssuesRefusal .producer s ∧ MarksOnly true s t) := by
  cases hport : s.producerPort with
  | nil => exact ⟨s, producerTurn_nil hport, .inl (marksOnly_false rfl rfl)⟩
  | cons cmd rest =>
    rw [producerTurn_cons hport]
    obtain ⟨t, hrun, ⟨-, hmark⟩ | ⟨⟨e, hdec⟩, hmark⟩⟩ := runCommand_frame cmd .producer (s.setProducerPort rest)
    · exact ⟨t, hrun, .inl hmark⟩
    · exact ⟨t, hrun, .inr ⟨.inl ⟨cmd, rest, e, rfl, hport, hdec⟩, hmark⟩⟩

/-- A turn of FOREGROUND completes, and sets the mark only by a refused command or pseudo-operation. -/
theorem foregroundTurn_frame (s : State) : ∃ t, foregroundTurn s = .next t ∧
    (MarksOnly false s t ∨ IssuesRefusal .foreground s ∧ MarksOnly true s t) := by
  cases hflight : s.inFlight with
  | some m =>
    rw [foregroundTurn_some hflight]
    obtain ⟨t, hrun, hmark⟩ := microStep_frame m s
    exact ⟨t, hrun, .inl hmark⟩
  | none =>
    cases hport : s.foregroundPort with
    | nil => exact ⟨s, foregroundTurn_nil hflight hport, .inl (marksOnly_false rfl rfl)⟩
    | cons req rest =>
      rw [foregroundTurn_cons hflight hport]
      cases req with
      | command cmd =>
        obtain ⟨t, hrun, ⟨-, hmark⟩ | ⟨⟨e, hdec⟩, hmark⟩⟩ := runCommand_frame cmd .foreground (s.setForegroundPort rest)
        · exact ⟨t, hrun, .inl hmark⟩
        · exact ⟨t, hrun, .inr ⟨.inr (.inl ⟨cmd, rest, e, rfl, hport, hdec⟩), hmark⟩⟩
      | pseudo p =>
        obtain ⟨t, hrun, ⟨-, hmark⟩ | ⟨⟨e, hexp⟩, hmark⟩⟩ := runRequest_pseudo_frame p (s.setForegroundPort rest)
        · exact ⟨t, hrun, .inl hmark⟩
        · exact ⟨t, hrun, .inr ⟨.inr (.inr ⟨p, rest, e, rfl, hport, hexp⟩), hmark⟩⟩

/-- Everything a turn can do to the parameters and the mark: a restart clears the mark, a refusal sets it. -/
theorem takeTurn_frame (turn : Turn) (s : State) : ∃ t, takeTurn turn s = .next t ∧
    ((turn = .restart ∧ t.params = s.params ∧ t.refused = false) ∨
      (turn ≠ .restart ∧ (MarksOnly false s t ∨ IssuesRefusal turn s ∧ MarksOnly true s t))) := by
  cases turn with
  | producer =>
    obtain ⟨t, hturn, hframe⟩ := producerTurn_frame s
    exact ⟨t, hturn, .inr ⟨by simp, hframe⟩⟩
  | foreground =>
    obtain ⟨t, hturn, hframe⟩ := foregroundTurn_frame s
    exact ⟨t, hturn, .inr ⟨by simp, hframe⟩⟩
  | restart => exact ⟨_, rfl, .inl ⟨rfl, rfl, rfl⟩⟩

/-! ## The step -/

theorem step_of_no_turns {s : State} (hconf : configurationRefusal s.params = none) (hturns : s.turns = []) :
    step s = .next s := by rw [step, advance, hconf, hturns]

/-- A configuration with a meaning never stops (R180, R213). -/
theorem step_next {s : State} (hconf : configurationRefusal s.params = none) : ∃ t, step s = .next t := by
  cases hturns : s.turns with
  | nil => exact ⟨s, step_of_no_turns hconf hturns⟩
  | cons turn rest =>
    obtain ⟨t, hturn, -⟩ := takeTurn_frame turn (s.setTurns rest)
    exact ⟨t, (step_eq_takeTurn hconf hturns).trans hturn⟩

section
variable {s : State} {ts : List Turn} (hconf : configurationRefusal s.params = none)
include hconf

theorem step_of_producerPort {cmd : Command} {rest : List Command} (hturns : s.turns = .producer :: ts)
    (hport : s.producerPort = cmd :: rest) :
    step s = runCommand cmd .producer ((s.setTurns ts).setProducerPort rest) :=
  (step_eq_takeTurn hconf hturns).trans (producerTurn_cons (s := s.setTurns ts) hport)

theorem step_of_foregroundPort {req : Request} {rest : List Request} (hturns : s.turns = .foreground :: ts)
    (hflight : s.inFlight = none) (hport : s.foregroundPort = req :: rest) :
    step s = runRequest req ((s.setTurns ts).setForegroundPort rest) :=
  (step_eq_takeTurn hconf hturns).trans (foregroundTurn_cons (s := s.setTurns ts) hflight hport)

theorem step_of_inFlight {m : MicroOp} (hturns : s.turns = .foreground :: ts) (hflight : s.inFlight = some m) :
    step s = microStep m (s.setTurns ts) :=
  (step_eq_takeTurn hconf hturns).trans (foregroundTurn_some (s := s.setTurns ts) hflight)

end

/-- Settles O9: an operation, a micro-step and a step each have their next state in the frame lemmas. -/
theorem everyOperationCompletes : Obligations.EveryOperationCompletes := by
  unfold Obligations.EveryOperationCompletes
  refine ⟨fun i s => ?_, microStep_next, fun s => step_next⟩
  obtain ⟨t, hexec, -⟩ := exec_frame i s
  exact ⟨t, hexec⟩

/-- Settles O11: no turn writes the parameters. -/
theorem parametersNeverChange : Obligations.ParametersNeverChange := by
  unfold Obligations.ParametersNeverChange
  intro s t hstep
  rcases step_cases hstep with ⟨-, rfl⟩ | ⟨turn, rest, -, hturn⟩
  · rfl
  · obtain ⟨u, hu, hframe⟩ := takeTurn_frame turn (s.setTurns rest)
    obtain rfl : u = t := Host.Outcome.next.inj (hu.symm.trans hturn)
    rcases hframe with ⟨-, hparams, -⟩ | ⟨-, ⟨hparams, -⟩ | ⟨-, hparams, -⟩⟩ <;> exact hparams

/-- Settles O13: of the turns only a restart clears the mark, and only a refused request sets it. -/
theorem refusalMarkLastsUntilReset : Obligations.RefusalMarkLastsUntilReset := by
  unfold Obligations.RefusalMarkLastsUntilReset
  intro s t hstep
  rcases step_cases hstep with ⟨hturns, rfl⟩ | ⟨turn, rest, hturns, hturn⟩
  · rw [hturns]
    exact ⟨fun h => absurd h (by simp), fun _ h => h, fun h h' => absurd (h.symm.trans h') (by simp)⟩
  · obtain ⟨u, hu, hframe⟩ := takeTurn_frame turn (s.setTurns rest)
    obtain rfl : u = t := Host.Outcome.next.inj (hu.symm.trans hturn)
    rw [hturns, List.head?_cons]
    simp only [Option.some.injEq]
    rcases hframe with ⟨rfl, -, hclear⟩ | ⟨hnot, ⟨-, hkept⟩ | ⟨hissues, -, hset⟩⟩
    · exact ⟨fun _ => hclear, fun h => absurd rfl h, fun _ h => absurd (hclear.symm.trans h) (by simp)⟩
    · rw [Bool.or_false] at hkept
      exact ⟨fun h => absurd h hnot, fun _ h => hkept.trans h,
        fun h h' => absurd ((hkept.symm.trans h').symm.trans h) (by simp)⟩
    · rw [Bool.or_true] at hset
      exact ⟨fun h => absurd h hnot, fun _ _ => hset, fun _ _ => hissues⟩

/-- Settles O12: both refusals are `refuse`. -/
theorem refusalSetsOnlyTheMark : Obligations.RefusalSetsOnlyTheMark := by
  unfold Obligations.RefusalSetsOnlyTheMark
  exact ⟨fun _ _ _ s => runCommand_of_error s, fun _ _ s => runRequest_of_error s⟩

/-- Settles O6: a step is the next turn, and a turn issues the head of its agent's port. -/
theorem stepRunsTheIssuedCommand : Obligations.StepRunsTheIssuedCommand := by
  unfold Obligations.StepRunsTheIssuedCommand
  refine ⟨fun s ts cmd rest hconf hturns hport => ?producer, fun s ts cmd rest hconf hturns hflight hport => ?foreground,
    fun s ts m hconf hturns hflight => ?microStep⟩
  case producer =>
    have hstep := step_of_producerPort hconf hturns hport
    exact ⟨fun i hdec => hstep.trans (runCommand_of_ok _ hdec), fun e hdec => hstep.trans (runCommand_of_error _ hdec)⟩
  case foreground =>
    have hstep := step_of_foregroundPort hconf hturns hflight hport
    exact ⟨fun i hdec => hstep.trans (runCommand_of_ok _ hdec), fun e hdec => hstep.trans (runCommand_of_error _ hdec)⟩
  case microStep => exact step_of_inFlight hconf hturns hflight

/-- Settles O60: the turn is `runRequest` of the pseudo-operation. -/
theorem renderTurnIssuesItsWords : Obligations.RenderTurnIssuesItsWords := by
  unfold Obligations.RenderTurnIssuesItsWords
  intro s ts p rest hconf hturns hflight hport
  have hstep := step_of_foregroundPort hconf hturns hflight hport
  exact ⟨fun is hexp => hstep.trans (runRequest_of_ok _ hexp), fun e hexp => hstep.trans (runRequest_of_error _ hexp)⟩

/-! ## Words placed for the next step -/

/-- A table word that decodes does so on its row's port (R71). -/
theorem decode_of_decodeTableWord {nbits w : Nat} {i : Instr} (h : decodeTableWord nbits w = some i) :
    decode (tableWord nbits w) (tablePort (tableWord nbits w)) = .ok i := by
  rw [decodeTableWord] at h
  split_ifs at h
  cases hdec : decode (tableWord nbits w) (tablePort (tableWord nbits w)) with
  | error e => simp [hdec, Except.toOption] at h
  | ok j =>
    rw [hdec] at h
    exact congrArg _ (Option.some.inj h)

/-- PRODUCER's next word, when it moves next, is the whole of the next step. -/
theorem step_of_placed_producer {cmd : Command} {i : Instr} {s : State} (hconf : configurationRefusal s.params = none)
    (hdec : decode cmd .producer = .ok i) :
    step ((s.setProducerPort (cmd :: s.producerPort)).setTurns (.producer :: s.turns)) = exec i s :=
  (step_of_producerPort (s := (s.setProducerPort (cmd :: s.producerPort)).setTurns (.producer :: s.turns)) hconf rfl
    rfl).trans (runCommand_of_ok s hdec)

/-- A word placed on its port by `placeCommand` is the next step's command. -/
theorem step_placeCommand {cmd : Command} {i : Instr} {s : State} (hconf : configurationRefusal s.params = none)
    (hflight : s.inFlight = none) (hdec : decode cmd (tablePort cmd) = .ok i) :
    step (placeCommand cmd s) = exec i s := by
  rw [placeCommand]
  cases hport : tablePort cmd with
  | producer => exact step_of_placed_producer hconf (hport ▸ hdec)
  | foreground =>
    have hsame : s.setInFlight none = s := by rw [← hflight]; rfl
    have hstep := step_of_foregroundPort
      (s := ((s.setForegroundPort (.command cmd :: s.foregroundPort)).setInFlight none).setTurns
        (.foreground :: s.turns))
      hconf rfl rfl rfl
    exact (hstep.trans (runCommand_of_ok (s.setInFlight none) (hport ▸ hdec))).trans (congrArg (exec i) hsame)

/-- Settles O7: the word is at the head of its port, and its agent has the next turn. -/
theorem placedWordRunsNext : Obligations.PlacedWordRunsNext := by
  unfold Obligations.PlacedWordRunsNext
  intro s nbits w i hconf hflight hdec
  exact step_placeCommand hconf hflight (decode_of_decodeTableWord hdec)

/-- Settles O8: the interrupt puts the word of the PUSH at the head of PRODUCER's port. -/
theorem receiveInterruptIsOnePush : Obligations.ReceiveInterruptIsOnePush := by
  unfold Obligations.ReceiveInterruptIsOnePush
  intro b s hconf
  exact step_of_placed_producer hconf (decodeOfEncode (.push b) rfl)

/-! ## Configurations without a meaning (R208, D3) -/

theorem step_of_refusal {s : State} {why : Refusal} (h : configurationRefusal s.params = some why) :
    step s = .refused why := by rw [step, advance, h]

/-- Settles O10: the two checks of `configurationRefusal` in their order, and no other. -/
theorem illegalConfigurationIsRefused : Obligations.IllegalConfigurationIsRefused := by
  unfold Obligations.IllegalConfigurationIsRefused
  refine fun s => ⟨fun hout => ?range, fun hlog hidx hwide htorn => ?torn, fun hlog hidx hwide htorn => ?legal⟩
  case range =>
    have hnot : ¬(1 ≤ s.params.logN ∧ s.params.logN + 1 ≤ s.params.idxW ∧ 16 ≤ s.params.idxW) := by omega
    exact step_of_refusal (if_pos hnot)
  case torn =>
    apply step_of_refusal
    rw [configurationRefusal, if_neg (not_not.2 ⟨hlog, hidx, hwide⟩), if_pos htorn]
  case legal => exact step_next ((configurationRefusal_eq_none _).2 ⟨hlog, hidx, hwide, htorn⟩)

end Sys2Proof.Proofs
end

section
/-! PROOFS. What a PUSH writes in both settings of ATOMIC_OPS (41_ring.md R100, 70_reset_and_hazards.md R210): one
state, given by the new read index, the stored byte and the next write index, and read from the ring and the
parameters alone. -/

namespace Sys2Proof.Proofs

open Sys2Proof Sys2Proof.Machine

/-- Where a PUSH leaves the read index: past the oldest byte of a full ring, and by micro-steps at `w - N + 1`. -/
def pushedReadIndex (s : State) : Nat :=
  if s.params.atomicOps then
    if availCount s = capacity s.params then nextIndex s.params s.r else s.r
  else if capacity s.params ≤ availCount s then
    (s.w + (indexModulus s.params - capacity s.params % indexModulus s.params) + 1) % indexModulus s.params
  else s.r

/-- The state a PUSH answers. -/
def pushed (b : Byte) (s : State) : State :=
  withRing s (pushedReadIndex s) (Memory.write s.buf (slotOf s.params s.w) b) (nextIndex s.params s.w)

theorem dropOldestIfFull_eq {s : State} (h : s.params.atomicOps = true) :
    dropOldestIfFull s = s.setR (pushedReadIndex s) := by
  simp only [dropOldestIfFull, isFull_iff, pushedReadIndex, h, if_true]
  split_ifs <;> rfl

theorem pushRepair_eq {s : State} (h : s.params.atomicOps = false) :
    pushRepair s.w s.r s = s.setR (pushedReadIndex s) := by
  simp only [pushRepair, pushedReadIndex, h, Bool.false_eq_true, if_false]
  unfold availCount
  split_ifs <;> rfl

theorem pushSteps_eq_pushed (b : Byte) {s : State} (h : s.params.atomicOps = false) :
    pushSteps b s = .next (pushed b s) := by
  rw [pushSteps_eq, pushRepair_eq h]
  rfl

theorem exec_push (b : Byte) (s : State) : exec (.push b) s = .next (pushed b s) := by
  rw [exec, execPush]
  cases h : s.params.atomicOps with
  | true =>
    rw [if_pos rfl, pushAtomic_eq, dropOldestIfFull_eq h]
    rfl
  | false => rw [if_neg Bool.false_ne_true, pushSteps_eq_pushed b h]

/-- What a PUSH reads is the ring and its parameters. -/
theorem exec_push_of_keepsRing (b : Byte) {s t : State} (h : KeepsRing s t) :
    exec (.push b) t = .next (withRing t (pushed b s).r (pushed b s).buf (pushed b s).w) := by
  have hcount := h.availCount
  obtain ⟨hparams, hw, hr, hbuf⟩ := h
  have hindex : pushedReadIndex t = pushedReadIndex s := by simp only [pushedReadIndex, hparams, hw, hr, hcount]
  rw [exec_push, pushed, hparams, hw, hbuf, hindex]
  rfl

theorem pushed_frame (b : Byte) (s : State) :
    (pushed b s).results = s.results ∧ SameDisplay s (pushed b s) ∧ SameControl s (pushed b s) :=
  exec_push_frame (exec_push b s)

theorem read_pushed (b : Byte) (s : State) (a : Nat) :
    Memory.read (pushed b s).buf a = if a = slotOf s.params s.w then b else Memory.read s.buf a :=
  Memory.read_write s.buf _ a b

theorem pushedReadIndex_lt {s : State} (h : s.r < indexModulus s.params) :
    pushedReadIndex s < indexModulus s.params := by
  unfold pushedReadIndex
  split_ifs
  · exact nextIndex_lt _ _
  · exact h
  · exact Nat.mod_lt _ (indexModulus_pos _)
  · exact h

end Sys2Proof.Proofs
end

section
/-! PROOFS. The invariant (10_state.md R22 to R32, 20_memory.md R50, R55). One lemma for each kind of update that an
operation makes: fields the invariant does not read, the indices with the ring storage, one DisplayCode register, and
the operation under way. -/

namespace Sys2Proof.Proofs

open Sys2Proof Sys2Proof.Machine

/-! ## The invariant under each kind of update -/

/-- Fields that the invariant does not read may change. -/
theorem invariant_of_keepsRing {s t : State} (h : Invariant s) (hring : KeepsRing s t) (hdcode : t.dcode = s.dcode)
    (hflight : t.inFlight = s.inFlight) (hsclk : t.sclk = false) (hlat : t.lat = false) : Invariant t := by
  have hcount := hring.availCount
  obtain ⟨hparams, hw, hr, hbuf⟩ := hring
  exact {
    configured := by rw [hparams]; exact h.configured
    writeIndex := by rw [hparams, hw]; exact h.writeIndex
    readIndex := by rw [hparams, hr]; exact h.readIndex
    canonical := by rw [hbuf]; exact h.canonical
    slots := by rw [hparams, hbuf]; exact h.slots
    ringBound := by rw [hcount, hparams]; exact h.ringBound
    indivisible := by rw [hparams, hflight]; exact h.indivisible
    locals := by rw [hparams, hflight]; exact h.locals
    displayCode := by simpa only [hparams, hdcode] using h.displayCode
    clockReleased := hsclk
    latchReleased := hlat }

/-- New indices in range and a new ring storage in canonical form, the bound kept. -/
theorem invariant_withRing {s : State} {r w : Nat} {buf : Memory} (h : Invariant s) (hr : r < indexModulus s.params)
    (hw : w < indexModulus s.params) (hwf : Memory.wf buf = true) (hslots : ∀ c ∈ buf, c.1 < capacity s.params)
    (hbound : s.params.atomicOps = true → availOf s.params w r ≤ capacity s.params) : Invariant (withRing s r buf w) :=
  { h with writeIndex := hw, readIndex := hr, canonical := hwf, slots := hslots, ringBound := hbound }

/-- With ATOMIC_OPS = false an operation may be under way, its locals being indices. -/
theorem invariant_setInFlight {s : State} (o : Option MicroOp) (h : Invariant s) (hatomic : s.params.atomicOps = false)
    (hlocals : ∀ m, o = some m → m.inRange (indexModulus s.params)) : Invariant (s.setInFlight o) :=
  { h with indivisible := fun htrue => absurd (hatomic.symm.trans htrue) (by simp), locals := hlocals }

theorem invariant_setInFlight_some {s : State} {m : MicroOp} (h : Invariant s) (hatomic : s.params.atomicOps = false)
    (hm : m.inRange (indexModulus s.params)) : Invariant (s.setInFlight (some m)) :=
  invariant_setInFlight _ h hatomic fun _ hsome => Option.some.inj hsome ▸ hm

theorem invariant_setInFlight_none {s : State} (h : Invariant s) (hatomic : s.params.atomicOps = false) :
    Invariant (s.setInFlight none) :=
  invariant_setInFlight _ h hatomic fun _ hsome => absurd hsome (by simp)

theorem invariant_giveResult {s : State} (v : Result) (h : Invariant s) : Invariant (giveResult s v) :=
  invariant_of_keepsRing h (KeepsRing.refl s) rfl rfl h.clockReleased h.latchReleased

theorem invariant_refuse {s : State} (h : Invariant s) : Invariant (refuse s) :=
  invariant_of_keepsRing h (KeepsRing.refl s) rfl rfl h.clockReleased h.latchReleased

/-- A read index in range, when no count above the capacity comes of it. -/
theorem invariant_setR {s : State} {r : Nat} (h : Invariant s) (hr : r < indexModulus s.params)
    (hbound : s.params.atomicOps = true → availOf s.params s.w r ≤ capacity s.params) : Invariant (s.setR r) :=
  invariant_withRing h hr h.writeIndex h.canonical h.slots hbound

/-- A register loaded with some symbol's codeword. -/
theorem invariant_setDcode {s : State} (p : Fin 8) (y : Symbol) (h : Invariant s) :
    Invariant (s.setDcode (s.dcode.set p.val (codeword s.params y) p.isLt)) := by
  refine { h with displayCode := fun q => ?_ }
  by_cases hq : p.val = q.val
  · exact ⟨y, by simp [hq]⟩
  · obtain ⟨z, hz⟩ := h.displayCode q
    exact ⟨z, by simpa [Vector.getElem_set, hq] using hz⟩

/-! ## The operations keep the invariant -/

theorem invariant_dropOldest {s : State} (h : Invariant s) (hatomic : s.params.atomicOps = true) (hne : s.w ≠ s.r) :
    Invariant (dropOldest s) :=
  invariant_setR h (nextIndex_lt _ _) fun _ => (atomicRing_dropOldest (atomicRing_of_invariant h hatomic) hne).bound

theorem exec_push_keeps_invariant (b : Byte) {s : State} (h : Invariant s) :
    ∃ t, exec (.push b) s = .next t ∧ Invariant t := by
  refine ⟨_, exec_push b s, invariant_withRing h (pushedReadIndex_lt h.readIndex) (nextIndex_lt _ _)
    (Memory.write_wf _ _ _ h.canonical) (Memory.write_slots _ _ _ _ (slotOf_lt _ _) h.slots) fun hatomic => ?bound⟩
  case bound =>
    obtain ⟨t, hexec, ht, -⟩ := exec_push_queue (atomicRing_of_invariant h hatomic) b
    obtain rfl : pushed b s = t := Host.Outcome.next.inj ((exec_push b s).symm.trans hexec)
    exact ht.bound

theorem exec_pop_keeps_invariant {s : State} (h : Invariant s) : ∃ t, exec .pop s = .next t ∧ Invariant t := by
  cases hatomic : s.params.atomicOps with
  | true =>
    have hs := atomicRing_of_invariant h hatomic
    by_cases hempty : s.w = s.r
    · exact ⟨_, exec_pop_empty hs hempty, invariant_giveResult _ h⟩
    · exact ⟨_, exec_pop_nonempty hs hempty, invariant_giveResult _ (invariant_dropOldest h hatomic hempty)⟩
  | false =>
    rw [exec, execPop, hatomic, if_neg Bool.false_ne_true]
    exact ⟨_, rfl, invariant_setInFlight_some h hatomic h.readIndex⟩

theorem exec_avail_keeps_invariant {s : State} (h : Invariant s) : ∃ t, exec .avail s = .next t ∧ Invariant t := by
  cases hatomic : s.params.atomicOps with
  | true => exact ⟨_, exec_avail (atomicRing_of_invariant h hatomic), invariant_giveResult _ h⟩
  | false =>
    rw [exec, execAvail, hatomic, if_neg Bool.false_ne_true]
    exact ⟨_, rfl, invariant_setInFlight_some h hatomic h.writeIndex⟩

theorem exec_loadpos_keeps_invariant (pos : BitVec 3) (sym : BitVec 4) {s : State} (h : Invariant s) :
    ∃ t, exec (.loadpos pos sym) s = .next t ∧ Invariant t := by
  rw [exec, execLoadpos]
  cases symbolOf sym with
  | none => exact ⟨_, rfl, invariant_refuse h⟩
  | some y => exact ⟨_, rfl, invariant_setDcode (position pos) y h⟩

theorem invariant_shiftAll (ds : List Byte) {s : State} (h : Invariant s) : Invariant (shiftAll ds s) := by
  rcases shiftAll_eq_withShifted ds s with heq | ⟨dl, chain, heq⟩ <;> rw [heq]
  · exact h
  · exact invariant_of_keepsRing h (KeepsRing.refl s) rfl rfl rfl h.latchReleased

theorem invariant_latchChains {s : State} (h : Invariant s) : Invariant (latchChains s) := by
  rw [latchChains_eq]
  exact invariant_of_keepsRing h (KeepsRing.refl s) rfl rfl h.clockReleased rfl

theorem exec_keeps_invariant (i : Instr) {s : State} (h : Invariant s) : ∃ t, exec i s = .next t ∧ Invariant t := by
  cases i with
  | push b => exact exec_push_keeps_invariant b h
  | pop => exact exec_pop_keeps_invariant h
  | avail => exact exec_avail_keeps_invariant h
  | setcfg en pol =>
    exact ⟨_, rfl, invariant_of_keepsRing h (KeepsRing.refl s) rfl rfl h.clockReleased h.latchReleased⟩
  | loadpos pos sym => exact exec_loadpos_keeps_invariant pos sym h
  | showOut => exact ⟨_, rfl, invariant_latchChains (invariant_shiftAll _ h)⟩
  | shift d => exact ⟨_, rfl, invariant_shiftAll [d] h⟩
  | latch => exact ⟨_, rfl, invariant_latchChains h⟩

/-! ## The micro-steps keep the invariant -/

/-- The byte C4 reads is no index, and a counter of free values is not read by the invariant. -/
theorem publishedRead_keeps_invariant (i : Nat) {s : State} (h : Invariant s) :
    ∃ v t, publishedRead s (slotOf s.params i) = some (v, t) ∧ Invariant t ∧ t.params = s.params := by
  rw [publishedRead, memRead_slotOf]
  split_ifs
  · exact ⟨_, _, rfl, invariant_of_keepsRing h (KeepsRing.refl s) rfl rfl h.clockReleased h.latchReleased, rfl⟩
  · exact ⟨_, _, rfl, h, rfl⟩

/-- An operation is under way with ATOMIC_OPS = false only, and its locals are in range. -/
theorem microStep_keeps_invariant {m : MicroOp} {s : State} (h : Invariant s) (hflight : s.inFlight = some m) :
    ∃ t, microStep m s = .next t ∧ Invariant t := by
  have hatomic : s.params.atomicOps = false := by
    rw [Bool.eq_false_iff]
    intro htrue
    rw [h.indivisible htrue] at hflight
    cases hflight
  have hlocals := h.locals m hflight
  have done := invariant_setInFlight_none h hatomic
  cases m with
  | popC2 rl => exact ⟨_, rfl, invariant_setInFlight_some h hatomic ⟨hlocals, h.writeIndex⟩⟩
  | popC3 rl wl =>
    obtain ⟨hrl, -⟩ := hlocals
    rw [microStep]
    split_ifs
    · exact ⟨_, rfl, invariant_giveResult _ done⟩
    · exact ⟨_, rfl, invariant_setInFlight_some h hatomic hrl⟩
  | popC4 rl =>
    obtain ⟨v, t, hread, ht, hparams⟩ := publishedRead_keeps_invariant rl h
    rw [microStep, hread]
    exact ⟨_, rfl, invariant_setInFlight_some ht (hparams ▸ hatomic) (hparams ▸ hlocals)⟩
  | popC5 rl v =>
    have hnext := invariant_setR h (nextIndex_lt s.params rl) fun htrue => absurd (hatomic.symm.trans htrue) (by simp)
    exact ⟨_, rfl, invariant_setInFlight_some hnext hatomic trivial⟩
  | popC6 v => exact ⟨_, rfl, invariant_giveResult _ done⟩
  | availA2 wl => exact ⟨_, rfl, invariant_setInFlight_some h hatomic ⟨hlocals, h.readIndex⟩⟩
  | availA3 wl rl => exact ⟨_, rfl, invariant_giveResult _ done⟩

/-! ## Reset -/

/-- An empty ring, drawn slots in canonical form and registers at BLANK (R200). -/
theorem invariant_resetWith {p : Params} (d : Draws) (hconf : configurationRefusal p = none) :
    Invariant (State.resetWith p d) where
  configured := hconf
  writeIndex := indexModulus_pos p
  readIndex := indexModulus_pos p
  canonical := drawnSlots_wf _ _
  slots := fun c hc => ((mem_drawnSlots _ _ c).1 hc).1
  ringBound := fun _ => by
    have hzero : availCount (State.resetWith p d) = 0 :=
      (availOf_eq_zero p 0 0 (indexModulus_pos p) (indexModulus_pos p)).2 rfl
    rw [hzero]
    exact Nat.zero_le _
  indivisible := fun _ => rfl
  locals := fun _ h => absurd h (by simp)
  displayCode := fun q => ⟨.blank, (eachOfEight_get (fun _ => 0x0000#16) q).symm⟩
  clockReleased := rfl
  latchReleased := rfl

/-- Settles O15: the power-on state is such a reset with nothing listed, which is canonical too. -/
theorem resetHasTheInvariant : Obligations.ResetHasTheInvariant := by
  unfold Obligations.ResetHasTheInvariant
  have hshipped : configurationRefusal Params.shipped = none := by
    rw [configurationRefusal_eq_none]
    simp [Params.shipped]
  have hreset := invariant_resetWith Draws.zero hshipped
  have hempty : Invariant (withRing (State.resetWith Params.shipped Draws.zero) 0 [] 0) :=
    invariant_withRing hreset hreset.readIndex hreset.writeIndex rfl (by simp) hreset.ringBound
  exact ⟨fun p d hconf => invariant_resetWith d hconf, hempty⟩

theorem invariant_restart {s : State} (h : Invariant s) : Invariant (restart s) :=
  invariant_of_keepsRing (invariant_resetWith (freeDraws s) h.configured) (KeepsRing.refl _) rfl rfl rfl rfl

/-! ## Turns and steps -/

theorem runCommand_keeps_invariant (cmd : Command) (port : Port) {s : State} (h : Invariant s) :
    ∃ t, runCommand cmd port s = .next t ∧ Invariant t := by
  cases hdec : decode cmd port with
  | ok i =>
    rw [runCommand_of_ok s hdec]
    exact exec_keeps_invariant i h
  | error e => exact ⟨_, runCommand_of_error s hdec, invariant_refuse h⟩

theorem runRequest_keeps_invariant (req : Request) {s : State} (h : Invariant s) :
    ∃ t, runRequest req s = .next t ∧ Invariant t := by
  cases req with
  | command cmd => exact runCommand_keeps_invariant cmd .foreground h
  | pseudo p =>
    cases hexp : expand p with
    | ok is =>
      exact ⟨_, runRequest_of_ok s hexp,
        invariant_of_keepsRing h (KeepsRing.refl s) rfl rfl h.clockReleased h.latchReleased⟩
    | error e => exact ⟨_, runRequest_of_error s hexp, invariant_refuse h⟩

theorem takeTurn_keeps_invariant (turn : Turn) {s : State} (h : Invariant s) :
    ∃ t, takeTurn turn s = .next t ∧ Invariant t := by
  cases turn with
  | producer =>
    cases hport : s.producerPort with
    | nil => exact ⟨s, producerTurn_nil hport, h⟩
    | cons cmd rest =>
      rw [takeTurn, producerTurn_cons hport]
      exact runCommand_keeps_invariant cmd .producer
        (invariant_of_keepsRing h (KeepsRing.refl s) rfl rfl h.clockReleased h.latchReleased)
  | foreground =>
    cases hflight : s.inFlight with
    | some m =>
      rw [takeTurn, foregroundTurn_some hflight]
      exact microStep_keeps_invariant h hflight
    | none =>
      cases hport : s.foregroundPort with
      | nil => exact ⟨s, foregroundTurn_nil hflight hport, h⟩
      | cons req rest =>
        rw [takeTurn, foregroundTurn_cons hflight hport]
        exact runRequest_keeps_invariant req
          (invariant_of_keepsRing h (KeepsRing.refl s) rfl rfl h.clockReleased h.latchReleased)
  | restart => exact ⟨_, rfl, invariant_restart h⟩

/-- Settles O16: a step is a turn, and a turn is an operation, a micro-step, an update of the ports or a restart. -/
theorem stepKeepsTheInvariant : Obligations.StepKeepsTheInvariant := by
  unfold Obligations.StepKeepsTheInvariant
  intro s t h hstep
  rcases step_cases hstep with ⟨-, rfl⟩ | ⟨turn, rest, -, hturn⟩
  · exact h
  · have htaken : Invariant (s.setTurns rest) :=
      invariant_of_keepsRing h (KeepsRing.refl s) rfl rfl h.clockReleased h.latchReleased
    obtain ⟨u, hu, hinv⟩ := takeTurn_keeps_invariant turn htaken
    obtain rfl : u = t := Host.Outcome.next.inj (hu.symm.trans hturn)
    exact hinv

end Sys2Proof.Proofs
end

section
/-! PROOFS. One ring operation, the losses, PUSHes among display operations, and the drawn slots (41_ring.md R100 to
R104, 70_reset_and_hazards.md R203, R210, 20_memory.md R63, 43_display_drive.md R145, 10_state.md R24). -/

namespace Sys2Proof.Proofs

open Sys2Proof Sys2Proof.Machine

/-! ## The three writes of a PUSH (R100, R210) -/

/-- Settles O17: the three writes of a PUSH, read one by one. -/
theorem pushStoresTheByte : Obligations.PushStoresTheByte := by
  unfold Obligations.PushStoresTheByte
  intro b s hatomic
  have hindex : pushedReadIndex s = if availCount s = capacity s.params then nextIndex s.params s.r else s.r :=
    if_pos hatomic
  exact ⟨pushed b s, exec_push b s, rfl, hindex, read_pushed b s, pushed_frame b s⟩

/-! ## Differences of indices as integers -/

/-- `(w - r) mod m`, the way the model computes it, is the integer difference modulo `m`. -/
theorem natCast_sub_mod (w r : Nat) {m : Nat} (hm : 0 < m) :
    (((w + (m - r % m)) % m : Nat) : Int) = ((w : Int) - r) % m := by
  have hr := Nat.div_add_mod r m
  have hlt := Nat.mod_lt r hm
  have hsum : ((w + (m - r % m) : Nat) : Int) = ((w : Int) - r) + m * (1 + (r / m : Nat)) := by
    rw [Nat.cast_add, Nat.cast_sub hlt.le]
    have hr' : (m : Int) * (r / m : Nat) + (r % m : Nat) = r := by exact_mod_cast hr
    linarith
  rw [Int.natCast_mod, hsum, Int.add_mul_emod_self_left]

theorem natCast_availOf (p : Params) (w r : Nat) : (availOf p w r : Int) = ((w : Int) - r) % (indexModulus p : Nat) :=
  natCast_sub_mod w r (indexModulus_pos p)

/-- Settles O30: P3's index is `w - N + 1`, and the other writes are those of every PUSH. -/
theorem pushByMicroSteps : Obligations.PushByMicroSteps := by
  unfold Obligations.PushByMicroSteps
  intro b s _ hatomic
  have hindex : pushedReadIndex s = if capacity s.params ≤ availCount s then
      (s.w + (indexModulus s.params - capacity s.params % indexModulus s.params) + 1) % indexModulus s.params else s.r :=
    if_neg (by rw [hatomic]; exact Bool.false_ne_true)
  refine ⟨pushed b s, exec_push b s, rfl, fun hfull => ?full, fun hroom => ?room, read_pushed b s, pushed_frame b s⟩
  case full =>
    have hr : (pushed b s).r = _ := hindex.trans (if_pos hfull)
    rw [hr, Nat.add_right_comm, natCast_sub_mod _ _ (indexModulus_pos _), Nat.cast_succ, add_sub_right_comm]
    rfl
  case room => exact hindex.trans (if_neg (Nat.not_le.2 hroom))

/-! ## One operation on the indivisible ring -/

theorem isEmpty_iff (s : State) : isEmpty s = true ↔ s.w = s.r := by simp [isEmpty]

/-- After a PUSH the ring holds one byte more, or `N`. -/
theorem availCount_after_push {s : State} (hs : AtomicRing s) (b : Byte) :
    ∃ t, exec (.push b) s = .next t ∧ AtomicRing t ∧ t.params = s.params ∧
      availCount t = min (availCount s + 1) (capacity s.params) := by
  obtain ⟨t, hexec, ht, hheld⟩ := exec_push_queue hs b
  obtain ⟨-, -, hparams, -⟩ := exec_push_frame hexec
  refine ⟨t, hexec, ht, hparams, ?_⟩
  rw [← held_length t, hheld, List.length_drop, List.length_append, held_length, List.length_singleton]
  omega

/-- Settles O18: the count after a PUSH is between 1 and `N`. -/
theorem pushSetsTheStatus : Obligations.PushSetsTheStatus := by
  unfold Obligations.PushSetsTheStatus
  intro b s hinv hatomic
  have hs := atomicRing_of_invariant hinv hatomic
  obtain ⟨t, hexec, ht, hparams, hcount⟩ := availCount_after_push hs b
  have hpos := capacity_pos s.params
  have hbound := hs.bound
  refine ⟨t, hexec, ?notEmpty, ?full⟩
  case notEmpty =>
    rw [Bool.eq_false_iff, ne_eq, isEmpty_iff, ← availCount_eq_zero ht]
    omega
  case full =>
    rw [isFull_iff, hparams]
    omega

/-- Settles O19: the first branch of POP. -/
theorem popOfAnEmptyRing : Obligations.PopOfAnEmptyRing := by
  unfold Obligations.PopOfAnEmptyRing
  intro s hatomic hempty
  rw [exec, execPop, if_pos hatomic, popAtomic_eq, if_pos ((isEmpty_iff s).2 hempty)]
  rfl

theorem popResult_false_toNat (v : Byte) : (popResult false v).toNat = v.toNat := by
  rw [popResult, BitVec.ofBool_false]
  exact (BitVec.toNat_append 0#1 v).trans (by simp)

/-- Settles O20: the second branch of POP. -/
theorem popTakesTheOldestByte : Obligations.PopTakesTheOldestByte := by
  unfold Obligations.PopTakesTheOldestByte
  intro s hatomic hne
  have hexec : exec .pop s = .next (giveResult (s.setR (nextIndex s.params s.r))
      (.pop (popResult false (Memory.read s.buf (slotOf s.params s.r))))) := by
    rw [exec, execPop, if_pos hatomic, popAtomic_eq, if_neg (mt (isEmpty_iff s).1 hne)]
  exact ⟨_, _, hexec, rfl, popResult_false_toNat _, rfl, rfl, fun _ => rfl, sameDisplay_refl s, sameControl_refl s⟩

/-- Settles O21: the count is the difference of the indices as integers. -/
theorem availReturnsTheCount : Obligations.AvailReturnsTheCount := by
  unfold Obligations.AvailReturnsTheCount
  intro s hatomic
  have hexec : exec .avail s = .next (giveResult s (.avail (availCount s))) := by
    rw [exec, execAvail, if_pos hatomic, availAtomic]
  exact ⟨_, _, hexec, rfl, natCast_availOf _ _ _, ⟨rfl, rfl, fun _ => rfl⟩, sameDisplay_refl s, sameControl_refl s⟩

/-- Settles O23: the queue law of PUSH drops one byte of a full ring and none of another. -/
theorem pushAddsToTheQueue : Obligations.PushAddsToTheQueue := by
  unfold Obligations.PushAddsToTheQueue
  intro b s hinv hatomic
  have hs := atomicRing_of_invariant hinv hatomic
  obtain ⟨t, hexec, -, hheld⟩ := exec_push_queue hs b
  refine ⟨t, hexec, ?_⟩
  rw [hheld]
  split_ifs with hfull
  · rw [← held_length, hfull, Nat.add_sub_cancel_left, List.drop_one, List.tail_append_of_ne_nil]
    rintro hnil
    rw [hnil] at hfull
    exact (capacity_pos s.params).ne hfull
  · have hbound := hs.bound
    rw [held_length] at hfull
    rw [Nat.sub_eq_zero_of_le (by omega), List.drop_zero]

/-- An indivisible ring with both indices equal holds nothing and is not full. -/
theorem held_eq_nil {s : State} (hs : AtomicRing s) (hempty : s.w = s.r) : held s = [] :=
  List.eq_nil_of_length_eq_zero ((held_length s).trans ((availCount_eq_zero hs).2 hempty))

/-- Settles O24: an empty ring holds no byte; another loses its head, and its count falls by one. -/
theorem popTakesFromTheQueue : Obligations.PopTakesFromTheQueue := by
  unfold Obligations.PopTakesFromTheQueue
  intro s hinv hatomic
  have hs := atomicRing_of_invariant hinv hatomic
  have hbound := hs.bound
  by_cases hempty : s.w = s.r
  · have hzero := (availCount_eq_zero hs).2 hempty
    have hpos := capacity_pos s.params
    refine ⟨_, exec_pop_empty hs hempty, ?_⟩
    have hnil := held_eq_nil hs hempty
    rw [hnil]
    refine ⟨rfl, hnil, (isEmpty_iff _).2 hempty, ?_⟩
    rw [Bool.eq_false_iff, ne_eq, isFull_iff]
    change availCount s ≠ capacity s.params
    omega
  · have hcount := availCount_dropOldest hs hempty
    have hdrop := atomicRing_dropOldest hs hempty
    refine ⟨_, exec_pop_nonempty hs hempty, ?_⟩
    rw [held_eq_cons_dropOldest hs hempty]
    refine ⟨rfl, rfl, ?_, ?_⟩
    · rw [Bool.eq_false_iff, ne_eq, isFull_iff]
      change availCount (dropOldest s) ≠ capacity s.params
      omega
    · rw [isEmpty_iff]
      change (dropOldest s).w = (dropOldest s).r ↔ _
      rw [← availCount_eq_zero hdrop]
      omega

/-! ## Losses (R203) -/

theorem length_pushedBytes_push_cons (b : Byte) (is : List Instr) :
    (pushedBytes (.push b :: is)).length = (pushedBytes is).length + 1 := rfl

/-- While the bytes held and those still to be pushed fit in the ring, no PUSH finds it full. -/
theorem overruns_eq_zero (is : List Instr) {s : State} (hs : AtomicRing s)
    (hfit : availCount s + (pushedBytes is).length ≤ capacity s.params) : overruns is s = 0 := by
  induction is generalizing s with
  | nil => rfl
  | cons i is ih =>
    obtain ⟨t, new, hi⟩ := exec_accounts hs i
    have hnone : overruns [i] s = 0 := by
      cases i with
      | push b =>
        rw [length_pushedBytes_push_cons] at hfit
        rw [overruns_push, if_neg (by omega)]
      | pop | avail | setcfg _ _ | loadpos _ _ | showOut | shift _ | latch => exact overruns_of_not_push s rfl
    have hbytes : (takenBytes new ++ held t).length = (held s ++ pushedBytes [i]).length := by
      rw [hi.bytes, hnone, List.drop_zero]
    rw [pushedBytes_cons, List.length_append] at hfit
    rw [List.length_append, List.length_append, held_length, held_length] at hbytes
    rw [overruns_cons is hi.runs, hnone, ih hi.ring (by rw [hi.params]; omega)]

/-- Settles O27: bytes that fit meet no full ring; of `h + k` bytes with no POP between, all but the last `N` are
lost. -/
theorem capacityBoundsTheLoss : Obligations.CapacityBoundsTheLoss := by
  unfold Obligations.CapacityBoundsTheLoss
  intro s hinv hatomic hempty
  have hs := atomicRing_of_invariant hinv hatomic
  have hzero := (availCount_eq_zero hs).2 hempty
  refine ⟨fun is hfit => overruns_eq_zero is hs (by omega), fun bs hover => ?loss⟩
  case loss =>
    obtain ⟨t, hrun, hheld, hresults, -⟩ := execAll_push_queue bs hs
    obtain ⟨u, new, hrun', hresults', -, hlen⟩ := execAll_accounts (bs.map Instr.push) hs
    obtain rfl : t = u := Host.Outcome.next.inj (hrun.symm.trans hrun')
    have hnew : new = [] := List.self_eq_append_right.1 (hresults.symm.trans hresults')
    have hpushed : pushedBytes (bs.map Instr.push) = bs := by simp [pushedBytes, List.filterMap_map]
    rw [hnew, hpushed, held_eq_nil hs hempty] at hlen
    rw [held_eq_nil hs hempty] at hheld
    simp only [takenBytes, List.filterMap_nil, List.nil_append, hheld, List.length_drop, List.length_nil] at hlen
    omega

/-! ## Display operations do not look at the ring (R63) -/

theorem shiftAll_withRing (ds : List Byte) (s : State) (r : Nat) (buf : Memory) (w : Nat) :
    shiftAll ds (withRing s r buf w) = withRing (shiftAll ds s) r buf w := by
  induction ds generalizing s with
  | nil => rfl
  | cons d ds ih => exact ih (shiftChains d s)

/-- A display operation does the same whatever the ring holds, and leaves that as it was. -/
theorem exec_displayOperation_withRing {i : Instr} (s : State) (h : displayOperation i = true) (r : Nat) (buf : Memory)
    (w : Nat) : ∃ t, exec i s = .next t ∧ exec i (withRing s r buf w) = .next (withRing t r buf w) := by
  cases i with
  | push _ | pop | avail => simp [displayOperation] at h
  | setcfg en pol => exact ⟨_, rfl, rfl⟩
  | loadpos pos sym =>
    simp only [exec, execLoadpos]
    cases symbolOf sym with
    | none | some _ => exact ⟨_, rfl, rfl⟩
  | showOut =>
    refine ⟨_, rfl, ?_⟩
    rw [exec, execShowOut, shiftAll_withRing]
    rfl
  | shift d => exact ⟨_, rfl, rfl⟩
  | latch => exact ⟨_, rfl, rfl⟩

/-- A PUSH and a display operation, in either order, leave one state. -/
theorem push_display_comm (b : Byte) {i : Instr} (s : State) (h : displayOperation i = true) :
    ∃ t, exec i s = .next t ∧ ∃ u, exec i (pushed b s) = .next u ∧ exec (.push b) t = .next u := by
  obtain ⟨t, hexec, hpush⟩ := exec_displayOperation_withRing s h (pushed b s).r (pushed b s).buf (pushed b s).w
  obtain ⟨t', hexec', hring, -⟩ := exec_displayOperation i s h
  obtain rfl : t = t' := Host.Outcome.next.inj (hexec.symm.trans hexec')
  exact ⟨t, hexec, _, hpush, exec_push_of_keepsRing b hring⟩

/-- Settles O50: the PUSH writes the ring alone, and the display operation neither reads nor writes it. -/
theorem pushCommutesWithDisplayOperations : Obligations.PushCommutesWithDisplayOperations := by
  unfold Obligations.PushCommutesWithDisplayOperations
  intro b i s h
  obtain ⟨t, hexec, u, hafter, hpush⟩ := push_display_comm b s h
  refine ⟨u, ?_, ?_⟩
  · rw [execAll_cons _ (exec_push b s), execAll_cons _ hafter, execAll]
  · rw [execAll_cons _ hexec, execAll_cons _ hpush, execAll]

/-! ## PUSHes among display operations (43_display_drive.md R145) -/

/-- A PUSH before display operations may as well come after them. -/
theorem execAll_push_past_display (b : Byte) (ds is : List Instr) (s : State)
    (hds : ∀ i ∈ ds, displayOperation i = true) :
    execAll (.push b :: (ds ++ is)) s = execAll (ds ++ .push b :: is) s := by
  induction ds generalizing s with
  | nil => rfl
  | cons d ds ih =>
    obtain ⟨t, hexec, u, hafter, hpush⟩ := push_display_comm b s (hds d (by simp))
    calc execAll (.push b :: (d :: ds ++ is)) s
        = execAll (ds ++ is) u := by rw [execAll_cons _ (exec_push b s), List.cons_append, execAll_cons _ hafter]
      _ = execAll (.push b :: (ds ++ is)) t := (execAll_cons _ hpush).symm
      _ = execAll (ds ++ .push b :: is) t := ih t fun i hi => hds i (by simp [hi])
      _ = execAll (d :: ds ++ .push b :: is) s := by rw [List.cons_append, execAll_cons _ hexec]

/-- Of PUSHes and display operations mixed, the display operations may all come first. -/
theorem execAll_display_first (is : List Instr) (s : State)
    (his : ∀ i ∈ is, isPush i = false → displayOperation i = true) :
    execAll is s = execAll (is.filter (fun i => !isPush i) ++ is.filter isPush) s := by
  induction is generalizing s with
  | nil => rfl
  | cons i is ih =>
    have hrest := fun t => ih t fun j hj => his j (by simp [hj])
    cases hpush : isPush i with
    | false =>
      obtain ⟨t, hexec, -⟩ := exec_displayOperation i s (his i (by simp) hpush)
      simp only [List.filter_cons, hpush, Bool.not_false, if_true, Bool.false_eq_true, if_false, List.cons_append]
      rw [execAll_cons _ hexec, execAll_cons _ hexec, hrest]
    | true =>
      obtain ⟨b, rfl⟩ : ∃ b, i = .push b := by
        cases i with
        | push b => exact ⟨b, rfl⟩
        | _ => simp [isPush] at hpush
      have hds : ∀ j ∈ is.filter (fun j => !isPush j), displayOperation j = true := fun j hj => by
        obtain ⟨hmem, hnot⟩ := List.mem_filter.1 hj
        exact his j (by simp [hmem]) (by simpa using hnot)
      simp only [List.filter_cons, hpush, Bool.not_true, Bool.false_eq_true, if_false, if_true]
      rw [← execAll_push_past_display b _ _ s hds, execAll_cons _ (exec_push b s), execAll_cons _ (exec_push b s), hrest]

/-- SHOW is its own sequence of SHIFTs and a LATCH. -/
theorem exec_showOut_eq_execAll (s : State) :
    exec .showOut s = execAll (showSequence s) s := (execAll_shifts_append (showOperands s) [.latch] s).symm

theorem execAll_showSequence_append (s : State) (is : List Instr) :
    execAll (showSequence s ++ is) s = execAll (.showOut :: is) s := by
  rw [showSequence, List.append_assoc, execAll_shifts_append]
  rfl

theorem displayOperation_of_mem_showSequence {i : Instr} {s : State} (h : i ∈ showSequence s) :
    displayOperation i = true := by
  simp only [showSequence, List.mem_append, List.mem_map, List.mem_singleton] at h
  rcases h with ⟨d, -, rfl⟩ | rfl <;> rfl

/-- PUSHes never stop. -/
theorem execAll_pushes_next (is : List Instr) (s : State) (h : ∀ i ∈ is, isPush i = true) :
    ∃ t, execAll is s = .next t := by
  induction is generalizing s with
  | nil => exact ⟨s, rfl⟩
  | cons i is ih =>
    obtain ⟨t, hexec, -⟩ := exec_frame i s
    rw [execAll_cons is hexec]
    exact ih t fun j hj => h j (by simp [hj])

/-- Settles O51: the PUSHes move past the SHIFTs and the LATCH one by one, and these are the SHOW. -/
theorem pushesInsideShowChangeNothing : Obligations.PushesInsideShowChangeNothing := by
  unfold Obligations.PushesInsideShowChangeNothing
  intro is s hshow
  have hdisplay : ∀ i ∈ is, isPush i = false → displayOperation i = true := fun i hi hnot =>
    displayOperation_of_mem_showSequence (hshow ▸ List.mem_filter.2 ⟨hi, by simp [hnot]⟩)
  have hfirst : execAll is s = execAll (.showOut :: is.filter isPush) s := by
    rw [execAll_display_first is s hdisplay, hshow, execAll_showSequence_append]
  obtain ⟨u, hexec, -⟩ := exec_frame .showOut s
  obtain ⟨t, hpushes⟩ := execAll_pushes_next (is.filter isPush) u fun i hi => (List.mem_filter.1 hi).2
  have hrun : execAll (.showOut :: is.filter isPush) s = .next t := (execAll_cons _ hexec).trans hpushes
  exact ⟨t, hfirst.trans hrun, hrun⟩

/-! ## The drawn slots are never returned (10_state.md R24, R33) -/

/-- Two runs of an operation from states that differ in the ring storage alone, but hold the same bytes, stay so. -/
def RunsAlike (i : Instr) (s : State) (m : Memory) : Prop :=
  ∃ t m', exec i s = .next t ∧ exec i (s.setBuf m) = .next (t.setBuf m') ∧ AtomicRing t ∧ held (t.setBuf m') = held t

/-- A display operation leaves both rings as they were. -/
theorem runsAlike_display {i : Instr} {s : State} {m : Memory} (h : displayOperation i = true) (hs : AtomicRing s)
    (hheld : held (s.setBuf m) = held s) : RunsAlike i s m := by
  obtain ⟨t, hexec, hsame⟩ := exec_displayOperation_withRing s h s.r m s.w
  obtain ⟨t', hexec', hring, -⟩ := exec_displayOperation i s h
  obtain rfl : t = t' := Host.Outcome.next.inj (hexec.symm.trans hexec')
  have ht := atomicRing_of_keepsRing hs hring
  have hkept := hring.held
  obtain ⟨hp, hw, hr, -⟩ := hring
  have hbuf : withRing t s.r m s.w = t.setBuf m := by rw [← hr, ← hw]; rfl
  have hring' : KeepsRing (s.setBuf m) (t.setBuf m) := ⟨hp, hw, hr, rfl⟩
  exact ⟨t, m, hexec, hbuf ▸ hsame, ht, by rw [hring'.held, hheld, hkept]⟩

theorem exec_runsAlike (i : Instr) {s : State} {m : Memory} (hs : AtomicRing s) (hheld : held (s.setBuf m) = held s) :
    RunsAlike i s m := by
  have hs' : AtomicRing (s.setBuf m) := ⟨hs.configured, hs.atomic, hs.writeIndex, hs.readIndex, hs.bound⟩
  cases i with
  | push b =>
    obtain ⟨t, hexec, ht, hqueue⟩ := exec_push_queue hs b
    obtain ⟨u, hexec', -, hqueue'⟩ := exec_push_queue hs' b
    obtain rfl : pushed b s = t := Host.Outcome.next.inj ((exec_push b s).symm.trans hexec)
    obtain rfl : pushed b (s.setBuf m) = u := Host.Outcome.next.inj ((exec_push b _).symm.trans hexec')
    exact ⟨_, (pushed b (s.setBuf m)).buf, hexec, hexec', ht, (hqueue'.trans (by rw [hheld]; rfl)).trans hqueue.symm⟩
  | pop =>
    by_cases hempty : s.w = s.r
    · exact ⟨_, m, exec_pop_empty hs hempty, exec_pop_empty hs' hempty, atomicRing_of_keepsRing hs (KeepsRing.refl s),
        hheld⟩
    · have hcons := held_eq_cons_dropOldest hs hempty
      have hcons' := held_eq_cons_dropOldest hs' hempty
      obtain ⟨hhead, htail⟩ := List.cons.inj (hcons'.symm.trans (hheld.trans hcons))
      refine ⟨_, m, exec_pop_nonempty hs hempty, ?_,
        atomicRing_of_keepsRing (atomicRing_dropOldest hs hempty) (KeepsRing.refl (dropOldest s)), htail⟩
      rw [exec_pop_nonempty hs' hempty, hhead]
      rfl
  | avail => exact ⟨_, m, exec_avail hs, exec_avail hs', atomicRing_of_keepsRing hs (KeepsRing.refl s), hheld⟩
  | setcfg _ _ | loadpos _ _ | showOut | shift _ | latch => exact runsAlike_display rfl hs hheld

theorem execAll_setBuf (is : List Instr) {s : State} {m : Memory} (hs : AtomicRing s)
    (hheld : held (s.setBuf m) = held s) :
    ∃ t m', execAll is s = .next t ∧ execAll is (s.setBuf m) = .next (t.setBuf m') ∧ held (t.setBuf m') = held t := by
  induction is generalizing s m with
  | nil => exact ⟨s, m, rfl, rfl, hheld⟩
  | cons i is ih =>
    obtain ⟨t, m', hexec, hexec', ht, hheld'⟩ := exec_runsAlike i hs hheld
    rw [execAll_cons is hexec, execAll_cons is hexec']
    exact ih ht hheld'

/-- Settles O28: two such resets differ in the ring storage alone, and the empty ring holds no slot of it. -/
theorem slotDrawsAreNeverReturned : Obligations.SlotDrawsAreNeverReturned := by
  unfold Obligations.SlotDrawsAreNeverReturned
  intro p d e is hconf hatomic hchain hlatch hdl
  have hs : AtomicRing (State.resetWith p d) := atomicRing_of_invariant (invariant_resetWith d hconf) hatomic
  have hs' : AtomicRing (State.resetWith p e) := atomicRing_of_invariant (invariant_resetWith e hconf) hatomic
  have hreset : State.resetWith p e = (State.resetWith p d).setBuf (State.resetWith p e).buf := by
    simp only [State.resetWith, State.setBuf, hchain, hlatch, hdl]
  have hheld : held ((State.resetWith p d).setBuf (State.resetWith p e).buf) = held (State.resetWith p d) := by
    rw [← hreset, held_eq_nil hs rfl, held_eq_nil hs' rfl]
  obtain ⟨t, m, hrun, hrun', hheld'⟩ := execAll_setBuf is hs hheld
  rw [hreset]
  exact ⟨t, t.setBuf m, hrun, hrun', rfl, rfl, rfl, hheld'.symm, sameDisplay_refl t, rfl⟩

end Sys2Proof.Proofs
end

section
/-! PROOFS. The operations of the encoder and the driver one by one (42_display_encode.md R122, R123,
43_display_drive.md R140 to R143, 70_reset_and_hazards.md R207), and which bit of a chain each of twelve SHIFTs
becomes. -/

namespace Sys2Proof.Proofs

open Sys2Proof Sys2Proof.Machine

theorem sameRing_refl (s : State) : SameRing s s := ⟨rfl, rfl, fun _ => rfl⟩

/-! ## SETCFG and LOADPOS -/

/-- Settles O36: the CFG word is put together from both fields, and read back. -/
theorem setcfgWritesTheConfiguration : Obligations.SetcfgWritesTheConfiguration := by
  unfold Obligations.SetcfgWritesTheConfiguration
  intro en pol s
  exact ⟨s.setCfg (configWord en pol), rfl, configEn_configWord en pol, configPol_configWord en pol, sameRing_refl s,
    rfl, rfl, rfl, rfl, rfl, rfl, rfl, sameControl_refl s⟩

/-- The state after a register of DisplayCode takes a symbol's codeword. -/
def loaded (p : Fin 8) (y : Symbol) (s : State) : State :=
  s.setDcode (s.dcode.set p.val (codeword s.params y) p.isLt)

theorem loaded_dcode (p q : Fin 8) (y : Symbol) (s : State) :
    (loaded p y s).dcode[q] = if q = p then codeword s.params y else s.dcode[q] := by
  simp only [loaded, State.setDcode_dcode, Fin.getElem_fin, Vector.getElem_set, Fin.ext_iff, eq_comm]

theorem exec_loadpos_of_symbol {sym : BitVec 4} {y : Symbol} (pos : BitVec 3) (s : State) (h : symbolOf sym = some y) :
    exec (.loadpos pos sym) s = .next (loaded (position pos) y s) := by
  rw [exec, execLoadpos, h]
  rfl

theorem exec_loadpos_of_reserved {sym : BitVec 4} (pos : BitVec 3) (s : State) (h : symbolOf sym = none) :
    exec (.loadpos pos sym) s = .next (refuse s) := by
  rw [exec, execLoadpos, h]

/-- Settles O38: the three codes name no symbol. -/
theorem loadposRefusesReservedSymbols : Obligations.LoadposRefusesReservedSymbols := by
  unfold Obligations.LoadposRefusesReservedSymbols
  intro pos s
  exact ⟨exec_loadpos_of_reserved pos s rfl, exec_loadpos_of_reserved pos s rfl, exec_loadpos_of_reserved pos s rfl⟩

theorem symbolCode_digit_toNat (d : Fin 10) : (symbolCode (.digit d)).toNat = d.val := by
  have hd := d.isLt
  rw [symbolCode, BitVec.toNat_ofNat]
  omega

/-- The codeword table by symbol codes (R120, 30_encoding.md R75). -/
theorem codeword_of_symbolCode (p : Params) (y : Symbol) :
    codeword p y =
      if (symbolCode y).toNat = 0 then 0x800#16
      else if (symbolCode y).toNat ≤ 9 then BitVec.ofNat 16 (2 ^ ((symbolCode y).toNat - 1))
      else if (symbolCode y).toNat = 10 then BitVec.ofNat 16 (2 ^ leftDotBit p)
      else if (symbolCode y).toNat = 11 then 0x600#16
      else 0x000#16 := by
  cases y with
  | digit d =>
    have hd := d.isLt
    rw [codeword_digit, symbolCode_digit_toNat]
    by_cases hzero : d.val = 0
    · rw [if_pos hzero, if_pos hzero]
      rfl
    · rw [if_neg hzero, if_neg hzero, if_pos (by omega)]
  | dot => exact codeword_dot p
  | sign => exact codeword_sign p
  | blank => exact codeword_blank p

/-- Settles O37: a code that is not reserved names a symbol, whose codeword the register takes. -/
theorem loadposLoadsTheCodeword : Obligations.LoadposLoadsTheCodeword := by
  unfold Obligations.LoadposLoadsTheCodeword
  intro pos sym s hC hD hE
  have hnamed : symbolOf sym ≠ none := by
    rw [ne_eq, symbolOf_eq_none_iff]
    simp [reservedSymbol, hC, hD, hE]
  obtain ⟨y, hy⟩ := Option.ne_none_iff_exists'.1 hnamed
  obtain rfl := symbolCode_of_symbolOf sym y hy
  refine ⟨_, exec_loadpos_of_symbol pos s hy, fun p => ?_, sameRing_refl s, rfl, rfl, rfl, rfl, rfl, rfl, rfl,
    sameControl_refl s⟩
  rw [loaded_dcode, ← codeword_of_symbolCode]
  simp only [Fin.ext_iff, position]

/-! ## SHIFT, LATCH and SHOW -/

/-- Settles O42: one stage of every chain, as arithmetic modulo 2^12. -/
theorem shiftMovesEveryChain : Obligations.ShiftMovesEveryChain := by
  unfold Obligations.ShiftMovesEveryChain
  intro d s
  exact ⟨shiftChains d s, rfl, rfl, shiftChains_chain_toNat d s, rfl, sameRing_refl s, rfl, rfl, rfl, rfl, rfl,
    sameControl_refl s⟩

/-- Settles O43: a LATCH writes the outputs and releases its line. -/
theorem latchCopiesEveryChain : Obligations.LatchCopiesEveryChain := by
  unfold Obligations.LatchCopiesEveryChain
  intro s
  exact ⟨latchChains s, rfl, fun l => by rw [latchChains_latch], rfl, sameRing_refl s, rfl, rfl, rfl, rfl, rfl, rfl,
    sameControl_refl s⟩

/-- The operand sent `n`-th is that of bit `11 - n` (R140). -/
theorem showOperands_getElem? {s : State} {n : Nat} {d : Byte} (h : (showOperands s)[n]? = some d) :
    d = shiftOperand (physicalCode s) (11 - n) := by
  obtain ⟨hn, hd⟩ := List.getElem?_eq_some_iff.1 h
  simp only [showOperands, bitOrder_eq, List.getElem_map, List.getElem_reverse, List.getElem_range, List.length_range]
    at hd
  exact hd.symm

/-- Settles O45: the operands of `showOperands`, which carry the bits of each line's codeword from the top. -/
theorem showIsTwelveShiftsAndOneLatch : Obligations.ShowIsTwelveShiftsAndOneLatch := by
  unfold Obligations.ShowIsTwelveShiftsAndOneLatch
  intro s
  refine ⟨showOperands s, showOperands_length s, exec_showOut_eq_execAll s, fun n d p l hd hl => ?_⟩
  rw [showOperands_getElem? hd, shiftOperand_getLsbD, physicalCode_of_line s hl]

/-! ## Twelve SHIFTs (R142) -/

theorem bitsAfter_zero_lt (l : Fin 8) (ds : List Byte) : bitsAfter l 0 ds < 2 ^ ds.length := by
  induction ds with
  | nil => simp [bitsAfter]
  | cons d ds ih =>
    have hbit : (d.getLsbD l.val).toNat ≤ 1 := Bool.toNat_le _
    rw [bitsAfter_cons, bitsAfter_eq_add, List.length_cons, Nat.pow_succ]
    nlinarith

/-- Of the bits sent, the `n`-th stands as many places up as there are bits after it. -/
theorem bitsAfter_testBit {l : Fin 8} {ds : List Byte} {n : Nat} {d : Byte} (m : Nat) (h : ds[n]? = some d) :
    (bitsAfter l m ds).testBit (ds.length - 1 - n) = d.getLsbD l.val := by
  induction ds generalizing n m with
  | nil => simp at h
  | cons e ds ih =>
    rw [bitsAfter_cons]
    cases n with
    | zero =>
      obtain rfl : e = d := by simpa using h
      rw [bitsAfter_eq_add, Nat.mul_comm, Nat.testBit_two_pow_mul_add _ (bitsAfter_zero_lt l ds)]
      cases hbit : e.getLsbD l.val <;> simp [Nat.testBit_zero]
    | succ n =>
      rw [List.getElem?_cons_succ] at h
      rw [← ih _ h, List.length_cons]
      congr 1
      omega

theorem execAll_shifts (ds : List Byte) (s : State) : execAll (ds.map Instr.shift) s = .next (shiftAll ds s) := by
  have h := execAll_shifts_append ds [] s
  rwa [List.append_nil] at h

/-- SHIFTs leave the outputs as they were (70_reset_and_hazards.md R205). -/
theorem shiftAll_latch (ds : List Byte) (s : State) : (shiftAll ds s).latch = s.latch := by
  rcases shiftAll_eq_withShifted ds s with h | ⟨dl, chain, h⟩ <;> rw [h]
  rfl

/-- Settles O46: of the number a chain holds, the low twelve digits are the bits sent, in order. -/
theorem twelveShiftsReplaceTheChains : Obligations.TwelveShiftsReplaceTheChains := by
  unfold Obligations.TwelveShiftsReplaceTheChains
  intro ds s hlen
  refine ⟨shiftAll ds s, execAll_shifts ds s, shiftAll_latch ds s, fun n d l hd => ?_⟩
  have hbit := bitsAfter_testBit (l := l) s.chain[l].toNat hd
  rw [hlen] at hbit
  rw [← BitVec.testBit_toNat, shiftAll_chain_toNat, Nat.testBit_mod_two_pow, show 11 - n = 12 - 1 - n by omega, hbit,
    decide_eq_true (by omega), Bool.true_and]

/-! ## Hand-made sequences (R207) -/

theorem shiftAll_with_cfg_dcode (ds : List Byte) (s : State) (cfg : BitVec 9) (dcode : Vector Codeword 8) :
    shiftAll ds { s with cfg := cfg, dcode := dcode } = { shiftAll ds s with cfg := cfg, dcode := dcode } := by
  induction ds generalizing s with
  | nil => rfl
  | cons d ds ih => exact ih (shiftChains d s)

/-- Settles O49: neither SHIFT nor LATCH reads CFG or DisplayCode. -/
theorem handMadeShiftsBypassTheMask : Obligations.HandMadeShiftsBypassTheMask := by
  unfold Obligations.HandMadeShiftsBypassTheMask
  intro ds s cfg dcode
  refine ⟨latchChains (shiftAll ds s), _, execAll_shifts_append ds [.latch] s, execAll_shifts_append ds [.latch] _, ?_⟩
  rw [shiftAll_with_cfg_dcode]
  exact ⟨rfl, rfl, rfl⟩

end Sys2Proof.Proofs
end

section
/-! PROOFS. The ring by micro-steps (70_reset_and_hazards.md R210 to R212). One law for each micro-step carries a run
of them forward, whatever PUSHes have landed before; a PUSH under an operation under way is the PUSH of the state
without it. Every placement of PUSHes inside a POP is then the first micro-steps, the PUSHes, and the rest from where
the POP stood. -/

namespace Sys2Proof.Proofs

open Sys2Proof Sys2Proof.Machine

/-! ## The listing, one micro-step at a time (R210) -/

theorem popResult_false_eq_setWidth (v : Byte) : popResult false v = v.setWidth 9 := by
  apply BitVec.eq_of_toNat_eq
  rw [popResult_false_toNat, BitVec.toNat_setWidth, Nat.mod_eq_of_lt (v.isLt.trans (by decide))]

theorem microStep_popC4 (rl : Nat) {s : State} (h : s.params.reordered = false) :
    microStep (.popC4 rl) s =
      .next (s.setInFlight (some (.popC5 rl (Memory.read s.buf (slotOf s.params rl))))) := by
  rw [microStep, publishedRead, h, if_neg Bool.false_ne_true, memRead_slotOf]
  rfl

theorem microStep_popC4_reordered (rl : Nat) {s : State} (h : s.params.reordered = true) :
    microStep (.popC4 rl) s =
      .next ((s.setDraws (s.draws + 1)).setInFlight (some (.popC5 rl (Config.draw8 s.draws)))) := by
  rw [microStep, publishedRead, h, if_pos rfl]
  rfl

theorem exec_pop_starts {s : State} (h : s.params.atomicOps = false) :
    exec .pop s = .next (s.setInFlight (some (.popC2 s.r))) := by
  rw [exec, execPop, h, if_neg Bool.false_ne_true]

theorem exec_avail_starts {s : State} (h : s.params.atomicOps = false) :
    exec .avail s = .next (s.setInFlight (some (.availA2 s.w))) := by
  rw [exec, execAvail, h, if_neg Bool.false_ne_true]

/-- Settles O31: each line of the listing is a branch of `microStep`, `execPop` or `execAvail`. -/
theorem microStepsFollowTheListing : Obligations.MicroStepsFollowTheListing := by
  unfold Obligations.MicroStepsFollowTheListing
  intro s
  refine ⟨fun h => ⟨exec_pop_starts h, exec_avail_starts h⟩, fun rl => rfl, fun rl => if_pos rfl,
    fun rl wl hne => if_neg hne, fun rl h => microStep_popC4 rl h, fun rl h => microStep_popC4_reordered rl h,
    fun rl v => rfl, fun v => ?popC6, fun wl => rfl, fun wl rl => rfl⟩
  case popC6 =>
    rw [← popResult_false_eq_setWidth]
    rfl

/-! ## Runs of micro-steps -/

theorem microSteps_idle (k : Nat) {s : State} (h : s.inFlight = none) : microSteps k s = .next s := by
  cases k with
  | zero => rfl
  | succ k => rw [microSteps, h]

section
variable (k : Nat) (s : State)

theorem microSteps_popC2 (rl : Nat) : microSteps (k + 1) (s.setInFlight (some (.popC2 rl))) =
    microSteps k (s.setInFlight (some (.popC3 rl s.w))) := rfl

theorem microSteps_popC3_empty (rl : Nat) : microSteps (k + 1) (s.setInFlight (some (.popC3 rl rl))) =
    .next (giveResult (s.setInFlight none) (.pop (popResult true 0x00#8))) := by
  have hstep : microStep (.popC3 rl rl) (s.setInFlight (some (.popC3 rl rl))) =
      .next (giveResult (s.setInFlight none) (.pop (popResult true 0x00#8))) := if_pos rfl
  simp only [microSteps, State.setInFlight_inFlight, hstep]
  exact microSteps_idle k rfl

theorem microSteps_popC3 {rl wl : Nat} (hne : wl ≠ rl) : microSteps (k + 1) (s.setInFlight (some (.popC3 rl wl))) =
    microSteps k (s.setInFlight (some (.popC4 rl))) := by
  have hstep : microStep (.popC3 rl wl) (s.setInFlight (some (.popC3 rl wl))) =
      .next (s.setInFlight (some (.popC4 rl))) := if_neg hne
  simp only [microSteps, State.setInFlight_inFlight, hstep]

theorem microSteps_popC4 (rl : Nat) (h : s.params.reordered = false) :
    microSteps (k + 1) (s.setInFlight (some (.popC4 rl))) =
      microSteps k (s.setInFlight (some (.popC5 rl (Memory.read s.buf (slotOf s.params rl))))) := by
  have hstep := microStep_popC4 rl (s := s.setInFlight (some (.popC4 rl))) h
  simp only [microSteps, State.setInFlight_inFlight, hstep]
  rfl

theorem microSteps_popC5 (rl : Nat) (v : Byte) : microSteps (k + 1) (s.setInFlight (some (.popC5 rl v))) =
    microSteps k ((s.setR (nextIndex s.params rl)).setInFlight (some (.popC6 v))) := rfl

theorem microSteps_popC6 (v : Byte) : microSteps (k + 1) (s.setInFlight (some (.popC6 v))) =
    .next (giveResult (s.setInFlight none) (.pop (popResult false v))) :=
  microSteps_idle k (s := giveResult (s.setInFlight none) (.pop (popResult false v))) rfl

theorem microSteps_availA2 (wl : Nat) : microSteps (k + 2) (s.setInFlight (some (.availA2 wl))) =
    .next (giveResult (s.setInFlight none) (.avail (availOf s.params wl s.r))) :=
  microSteps_idle k (s := giveResult (s.setInFlight none) (.avail (availOf s.params wl s.r))) rfl

end

/-! ## A POP begun, and a POP finished -/

/-- The state once a POP that read the index `rl` and the byte `v` has gone through C5 and C6. -/
def popDone (rl : Nat) (v : Byte) (s : State) : State :=
  giveResult ((s.setR (nextIndex s.params rl)).setInFlight none) (.pop (popResult false v))

/-- Where a POP of a ring that is not empty stands `k` micro-steps after C1, up to C5. -/
def popAt (s : State) : Nat → MicroOp
  | 0 => .popC2 s.r
  | 1 => .popC3 s.r s.w
  | 2 => .popC4 s.r
  | _ => .popC5 s.r (Memory.read s.buf (slotOf s.params s.r))

/-- The byte such a POP returns: read by C4 from the ring as PUSHes have left it, or read already. -/
def popByte (k : Nat) (s u : State) : Byte := Memory.read (if k ≤ 2 then u.buf else s.buf) (slotOf s.params s.r)

theorem microSteps_finish_popC4 (k rl : Nat) (s : State) (h : s.params.reordered = false) :
    microSteps (k + 3) (s.setInFlight (some (.popC4 rl))) =
      .next (popDone rl (Memory.read s.buf (slotOf s.params rl)) s) := by
  rw [microSteps_popC4 _ s rl h, microSteps_popC5, microSteps_popC6]
  rfl

/-- What the micro-step statements suppose of a state; `Invariant` gives the first three. -/
structure MicroRing (s : State) : Prop where
  configured : configurationRefusal s.params = none
  writeIndex : s.w < indexModulus s.params
  readIndex : s.r < indexModulus s.params
  micro : s.params.atomicOps = false
  ordered : s.params.reordered = false
  idle : s.inFlight = none

theorem microRing_of_invariant {s : State} (h : Invariant s) (hmicro : s.params.atomicOps = false)
    (hordered : s.params.reordered = false) (hidle : s.inFlight = none) : MicroRing s :=
  ⟨h.configured, h.writeIndex, h.readIndex, hmicro, hordered, hidle⟩

theorem popAtomic_empty {s : State} (hempty : s.w = s.r) :
    popAtomic s = .next (giveResult s (.pop (popResult true 0x00#8))) := by
  rw [popAtomic_eq, if_pos ((isEmpty_iff s).2 hempty)]

theorem setInFlight_none_of_idle {s : State} (h : s.inFlight = none) : s.setInFlight none = s := by
  rw [← h]
  rfl

/-- A POP that went through C6 with no PUSH inside is the indivisible one. -/
theorem popAtomic_eq_popDone {s : State} (hidle : s.inFlight = none) (hne : s.w ≠ s.r) :
    popAtomic s = .next (popDone s.r (Memory.read s.buf (slotOf s.params s.r)) s) := by
  have hsame := setInFlight_none_of_idle (s := s.setR (nextIndex s.params s.r)) hidle
  rw [popAtomic_eq, if_neg (mt (isEmpty_iff s).1 hne), popDone, hsame]

section
variable {s : State} (hs : MicroRing s)
include hs

theorem microSteps_begin_pop (hne : s.w ≠ s.r) {k : Nat} (hk : k ≤ 3) :
    andThen (exec .pop s) (microSteps k) = .next (s.setInFlight (some (popAt s k))) := by
  rw [exec_pop_starts hs.micro, andThen_next]
  interval_cases k
  · rfl
  · rfl
  · rw [microSteps_popC2, microSteps_popC3 _ s hne]
    rfl
  · rw [microSteps_popC2, microSteps_popC3 _ s hne, microSteps_popC4 _ s s.r hs.ordered]
    rfl

/-- The rest of a POP, from `u` on, that has begun in `s`. -/
theorem microSteps_finish_pop (hne : s.w ≠ s.r) {u : State} (hparams : u.params = s.params) (hu : u.w ≠ s.r) {k : Nat}
    (hk : k ≤ 3) :
    microSteps 5 (u.setInFlight (some (popAt s k))) = .next (popDone s.r (popByte k s u) u) := by
  have hordered : u.params.reordered = false := hparams ▸ hs.ordered
  interval_cases k
  · rw [popAt, microSteps_popC2, microSteps_popC3 _ u hu, microSteps_finish_popC4 _ _ _ hordered, hparams]
    rfl
  · rw [popAt, microSteps_popC3 _ u hne, microSteps_finish_popC4 _ _ _ hordered, hparams]
    rfl
  · rw [popAt, microSteps_finish_popC4 _ _ _ hordered, hparams]
    rfl
  · exact (microSteps_popC5 4 u s.r _).trans ((microSteps_popC6 3 _ _))

theorem microSteps_pop_past_C5 (hne : s.w ≠ s.r) :
    andThen (exec .pop s) (microSteps 4) = .next ((s.setR (nextIndex s.params s.r)).setInFlight
      (some (.popC6 (Memory.read s.buf (slotOf s.params s.r))))) := by
  rw [exec_pop_starts hs.micro, andThen_next, microSteps_popC2, microSteps_popC3 _ s hne,
    microSteps_popC4 _ s s.r hs.ordered, microSteps_popC5]
  rfl

theorem microSteps_pop (hne : s.w ≠ s.r) (k : Nat) :
    andThen (exec .pop s) (microSteps (k + 5)) =
      .next (popDone s.r (Memory.read s.buf (slotOf s.params s.r)) s) := by
  rw [exec_pop_starts hs.micro, andThen_next, microSteps_popC2, microSteps_popC3 _ s hne,
    microSteps_finish_popC4 _ _ _ hs.ordered]

theorem microSteps_pop_empty (hempty : s.w = s.r) (k : Nat) :
    andThen (exec .pop s) (microSteps (k + 2)) = .next (giveResult s (.pop (popResult true 0x00#8))) := by
  rw [exec_pop_starts hs.micro, andThen_next, microSteps_popC2, hempty, microSteps_popC3_empty,
    setInFlight_none_of_idle hs.idle]

theorem microSteps_avail :
    andThen (exec .avail s) (microSteps 2) = .next (availAtomic s) := by
  rw [exec_avail_starts hs.micro, andThen_next, microSteps_availA2, setInFlight_none_of_idle hs.idle]
  rfl

end

/-! ## The indices of a PUSH by micro-steps -/

/-- `w - N + 1`, as plain arithmetic. -/
theorem repairIndex_cases (p : Params) (w : Nat) (hconf : configurationRefusal p = none) (hw : w < indexModulus p) :
    (w + 1 < capacity p ∧
      (w + (indexModulus p - capacity p % indexModulus p) + 1) % indexModulus p = w + 1 + indexModulus p - capacity p) ∨
    (capacity p ≤ w + 1 ∧
      (w + (indexModulus p - capacity p % indexModulus p) + 1) % indexModulus p = w + 1 - capacity p) := by
  have hhalf := (capacity_dvd_indexModulus p hconf).2
  have hpos := capacity_pos p
  rw [Nat.mod_eq_of_lt (show capacity p < indexModulus p by omega)]
  rcases Nat.lt_or_ge (w + 1) (capacity p) with hlt | hge
  · exact .inl ⟨hlt, by rw [Nat.mod_eq_of_lt (by omega)]; omega⟩
  · refine .inr ⟨hge, ?_⟩
    rw [show w + (indexModulus p - capacity p) + 1 = w + 1 - capacity p + indexModulus p by omega, Nat.add_mod_right,
      Nat.mod_eq_of_lt (by omega)]

theorem two_le_capacity (p : Params) (hconf : configurationRefusal p = none) : 2 ≤ capacity p := by
  obtain ⟨hlog, -⟩ := (configurationRefusal_eq_none p).1 hconf
  exact Nat.pow_le_pow_right (n := 2) (by decide) hlog

/-- One more byte stored raises the count by one, short of wrapping round. -/
theorem availOf_nextIndex_left (p : Params) {w r : Nat} (hw : w < indexModulus p) (hr : r < indexModulus p)
    (hroom : availOf p w r + 1 < indexModulus p) : availOf p (nextIndex p w) r = availOf p w r + 1 := by
  have hcount := availOf_cases p w r hw hr
  have hnext := nextIndex_cases p w hw
  have hcount' := availOf_cases p (nextIndex p w) r (nextIndex_lt p w) hr
  omega

/-- One byte taken lowers the count by one. -/
theorem availOf_nextIndex_right (p : Params) {w r : Nat} (hw : w < indexModulus p) (hr : r < indexModulus p)
    (hne : w ≠ r) : availOf p w (nextIndex p r) + 1 = availOf p w r := by
  have hcount := availOf_cases p w r hw hr
  have hnext := nextIndex_cases p r hr
  have hcount' := availOf_cases p w (nextIndex p r) hw (nextIndex_lt p r)
  omega

/-- A PUSH neither reads nor writes the operation under way. -/
theorem exec_push_setInFlight (b : Byte) (s : State) (o : Option MicroOp) :
    exec (.push b) (s.setInFlight o) = .next ((pushed b s).setInFlight o) :=
  exec_push_of_keepsRing b (t := s.setInFlight o) (KeepsRing.refl s)

section
variable {s : State} (hs : MicroRing s)
include hs

theorem availCount_eq_zero_iff : availCount s = 0 ↔ s.w = s.r := availOf_eq_zero _ _ _ hs.writeIndex hs.readIndex

theorem pushedReadIndex_of_room (hroom : availCount s < capacity s.params) : pushedReadIndex s = s.r := by
  rw [pushedReadIndex, hs.micro, if_neg Bool.false_ne_true, if_neg (Nat.not_le.2 hroom)]

/-- P3 on a ring of `N` bytes drops the oldest. -/
theorem pushedReadIndex_of_full (hfull : availCount s = capacity s.params) :
    pushedReadIndex s = nextIndex s.params s.r := by
  have hw := hs.writeIndex
  have hr := hs.readIndex
  have htwo := two_le_capacity _ hs.configured
  have hrepair := repairIndex_cases s.params s.w hs.configured hw
  have hcount := availOf_cases s.params s.w s.r hw hr
  have hnext := nextIndex_cases s.params s.r hr
  rw [pushedReadIndex, hs.micro, if_neg Bool.false_ne_true, if_pos hfull.ge]
  change availOf s.params s.w s.r = _ at hfull
  omega

/-- P3 on a ring of `N` bytes or more leaves room for one, which the PUSH then fills (R212). -/
theorem availCount_pushed_of_full (b : Byte) (hfull : capacity s.params ≤ availCount s) :
    availCount (pushed b s) = capacity s.params := by
  have hw := hs.writeIndex
  have hhalf := (capacity_dvd_indexModulus _ hs.configured).2
  have hpos := capacity_pos s.params
  have hr : (pushed b s).r =
      (s.w + (indexModulus s.params - capacity s.params % indexModulus s.params) + 1) % indexModulus s.params := by
    change pushedReadIndex s = _
    rw [pushedReadIndex, hs.micro, if_neg Bool.false_ne_true, if_pos hfull]
  have hrepair := repairIndex_cases s.params s.w hs.configured hw
  have hnext := nextIndex_cases s.params s.w hw
  have hcount := availOf_cases s.params (nextIndex s.params s.w) (pushed b s).r (nextIndex_lt _ _)
    (hr ▸ Nat.mod_lt _ (indexModulus_pos _))
  change availOf s.params (nextIndex s.params s.w) (pushed b s).r = _
  omega

/-- Up to `N` bytes, a PUSH by micro-steps is the indivisible PUSH. -/
theorem pushAtomic_eq_pushed (b : Byte) (hbound : availCount s ≤ capacity s.params) :
    pushAtomic b s = .next (pushed b s) := by
  have hdrop : dropOldestIfFull s = s.setR (pushedReadIndex s) := by
    rcases Nat.lt_or_eq_of_le hbound with hroom | hfull
    · rw [pushedReadIndex_of_room hs hroom, dropOldestIfFull, if_neg (by rw [isFull_iff]; omega)]
      rfl
    · rw [pushedReadIndex_of_full hs hfull, dropOldestIfFull, if_pos ((isFull_iff s).2 hfull)]
  rw [pushAtomic_eq, hdrop]
  rfl

/-- With a byte stored beyond the `N` held, the indices still differ. -/
theorem pushed_w_ne (b : Byte) (hbound : availCount s ≤ capacity s.params) : (pushed b s).w ≠ s.r := by
  have htwo := two_le_capacity _ hs.configured
  have hhalf := (capacity_dvd_indexModulus _ hs.configured).2
  have hcount := availOf_nextIndex_left s.params hs.writeIndex hs.readIndex (by
    change availCount s + 1 < _
    omega)
  intro heq
  have hzero := (availOf_eq_zero s.params _ _ (nextIndex_lt s.params s.w) hs.readIndex).2 heq
  omega

end

/-- Settles O32: a POP runs through C1 to C6 or ends at C3, an AVAIL through A1 to A3, and P3 drops as PUSH does. -/
theorem uninterruptedMicroStepsAreAtomic : Obligations.UninterruptedMicroStepsAreAtomic := by
  unfold Obligations.UninterruptedMicroStepsAreAtomic
  intro s hinv hmicro hordered hidle hbound
  have hs := microRing_of_invariant hinv hmicro hordered hidle
  refine ⟨?pop, microSteps_avail hs, fun b => (exec_push b s).trans (pushAtomic_eq_pushed hs b hbound).symm⟩
  case pop =>
    by_cases hempty : s.w = s.r
    · exact (microSteps_pop_empty hs hempty 3).trans (popAtomic_empty hempty).symm
    · exact (microSteps_pop hs hempty 0).trans (popAtomic_eq_popDone hidle hempty).symm

/-! ## One PUSH inside a POP -/

section
variable {s : State} (hs : MicroRing s) (b : Byte)
include hs

/-- A POP leaves room for a PUSH, so that the two may be written in either order. -/
theorem pushed_popDone (v : Byte) (hne : s.w ≠ s.r) (hbound : availCount s ≤ capacity s.params) :
    MicroRing (popDone s.r v s) ∧ availCount (popDone s.r v s) < capacity s.params ∧
      pushed b (popDone s.r v s) = popDone s.r v (pushed b s) := by
  have hring : MicroRing (popDone s.r v s) :=
    ⟨hs.configured, hs.writeIndex, nextIndex_lt _ _, hs.micro, hs.ordered, rfl⟩
  have hcount : availCount (popDone s.r v s) + 1 = availCount s :=
    availOf_nextIndex_right s.params hs.writeIndex hs.readIndex hne
  have hroom : availCount (popDone s.r v s) < capacity s.params := by omega
  refine ⟨hring, hroom, ?_⟩
  rw [pushed, pushedReadIndex_of_room hring hroom]
  rfl

/-- A PUSH that lands before C5 of a POP. -/
theorem race_before_C5 (hne : s.w ≠ s.r) (hbound : availCount s ≤ capacity s.params) {k : Nat} (hk : k ≤ 3) :
    andThen (andThen (andThen (exec .pop s) (microSteps k)) (exec (.push b))) (microSteps 5) =
      .next (popDone s.r (popByte k s (pushed b s)) (pushed b s)) := by
  rw [microSteps_begin_pop hs hne hk, andThen_next, exec_push_setInFlight, andThen_next]
  exact microSteps_finish_pop hs hne (u := pushed b s) rfl (pushed_w_ne hs b hbound) hk

/-- A PUSH that lands after C5 finds the read index moved on. -/
theorem race_after_C5 (hne : s.w ≠ s.r) (hbound : availCount s ≤ capacity s.params) {k : Nat} (hk : 4 ≤ k) :
    andThen (andThen (andThen (exec .pop s) (microSteps k)) (exec (.push b))) (microSteps 5) =
      .next (popDone s.r (Memory.read s.buf (slotOf s.params s.r)) (pushed b s)) := by
  obtain ⟨-, -, hcomm⟩ := pushed_popDone hs b (Memory.read s.buf (slotOf s.params s.r)) hne hbound
  rw [← hcomm]
  obtain rfl | ⟨j, rfl⟩ : k = 4 ∨ ∃ j, k = j + 5 := by
    rcases Nat.lt_or_eq_of_le hk with h | h
    · exact .inr ⟨k - 5, by omega⟩
    · exact .inl h.symm
  · rw [microSteps_pop_past_C5 hs hne, andThen_next, exec_push_setInFlight, andThen_next, microSteps_popC6]
    rfl
  · rw [microSteps_pop hs hne, andThen_next, exec_push, andThen_next]
    exact microSteps_idle 5 rfl

/-- POP and then PUSH, the PUSH in either form. -/
theorem popAtomic_then_push (hne : s.w ≠ s.r) (hbound : availCount s ≤ capacity s.params) :
    andThen (popAtomic s) (pushSteps b) =
        .next (popDone s.r (Memory.read s.buf (slotOf s.params s.r)) (pushed b s)) ∧
      andThen (popAtomic s) (pushAtomic b) =
        .next (popDone s.r (Memory.read s.buf (slotOf s.params s.r)) (pushed b s)) := by
  obtain ⟨hring, hroom, hcomm⟩ := pushed_popDone hs b (Memory.read s.buf (slotOf s.params s.r)) hne hbound
  rw [popAtomic_eq_popDone hs.idle hne, andThen_next, andThen_next, pushSteps_eq_pushed b hring.micro,
    pushAtomic_eq_pushed hring b hroom.le, hcomm]
  exact ⟨rfl, rfl⟩

/-- On a full ring the slots of both indices are one. -/
theorem slotOf_w_of_full (hfull : availCount s = capacity s.params) : slotOf s.params s.w = slotOf s.params s.r := by
  rw [slotOf_write s hs.configured hs.writeIndex hs.readIndex, hfull, slotOf, Nat.add_mod_right, ← slotOf]

theorem ne_of_microRing_full (hfull : availCount s = capacity s.params) : s.w ≠ s.r := by
  have hpos := capacity_pos s.params
  rw [ne_eq, ← availCount_eq_zero_iff hs]
  omega

/-- A PUSH on a full ring drops the head of the queue and adds its byte at the end (R211). -/
theorem held_pushed_of_full (hfull : availCount s = capacity s.params) : held (pushed b s) = (held s).tail ++ [b] := by
  obtain ⟨n, hn⟩ : ∃ n, capacity s.params = n + 1 := ⟨capacity s.params - 1, by have := capacity_pos s.params; omega⟩
  have hslot : slotOf s.params s.w = slotOf s.params (nextIndex s.params s.r + n) := by
    rw [slotOf_nextIndex_add _ _ _ hs.configured, ← hn, ← hfull]
    exact slotOf_write s hs.configured hs.writeIndex hs.readIndex
  have hpushed : held (pushed b s) = bytesFrom s.params (Memory.write s.buf (slotOf s.params s.w) b)
      (nextIndex s.params s.r) (n + 1) := by
    rw [held_eq_bytesFrom (pushed b s) hs.configured, availCount_pushed_of_full hs b hfull.ge, hn,
      ← pushedReadIndex_of_full hs hfull]
    rfl
  rw [hpushed, hslot, bytesFrom_push _ _ _ _ _ (by omega), held_eq_bytesFrom s hs.configured, hfull, hn,
    bytesFrom_cons _ _ _ _ hs.configured, List.tail_cons]

/-- With a byte held and room for another, the slot a PUSH writes is not the one a POP reads. -/
theorem slotOf_w_ne (hne : s.w ≠ s.r) (hroom : availCount s < capacity s.params) :
    slotOf s.params s.r ≠ slotOf s.params s.w := by
  have hpos : 0 < availCount s := Nat.pos_of_ne_zero (mt (availCount_eq_zero_iff hs).1 hne)
  rw [slotOf_write s hs.configured hs.writeIndex hs.readIndex]
  exact slotOf_ne s.params s.r 0 _ hpos (by omega)

end

theorem w_pushed_eq {s : State} (hs : MicroRing s) (b : Byte) :
    (pushed b s).w = (s.r + availCount s + 1) % indexModulus s.params := by
  have hw := add_availOf s.params s.w s.r hs.writeIndex hs.readIndex
  change (s.w + 1) % _ = _
  rw [← hw, Nat.mod_add_mod]
  rfl

/-- Settles O33: before C4 the slot that the POP reads is the one the PUSH has written; from then on the byte is read,
and the PUSH puts the read index where C5 does. -/
theorem raceReturnsTheNewestByte : Obligations.RaceReturnsTheNewestByte := by
  unfold Obligations.RaceReturnsTheNewestByte
  intro b s hinv hmicro hordered hidle hfull
  have hs := microRing_of_invariant hinv hmicro hordered hidle
  have hne := ne_of_microRing_full hs hfull
  refine ⟨fun k hk => ?before, fun k hk _ => ?after⟩
  case before =>
    have hbyte : popByte k s (pushed b s) = b := by
      rw [popByte, if_pos hk, read_pushed, if_pos (slotOf_w_of_full hs hfull).symm]
    have hring : KeepsRing (pushed b s) (popDone s.r b (pushed b s)) :=
      ⟨rfl, rfl, (pushedReadIndex_of_full hs hfull).symm, rfl⟩
    refine ⟨_, race_before_C5 hs b hne hfull.le (by omega), ?_⟩
    rw [hbyte]
    exact ⟨rfl, rfl, rfl, (w_pushed_eq hs b).trans (by rw [hfull]), hring.held.trans (held_pushed_of_full hs b hfull)⟩
  case after =>
    rw [(popAtomic_then_push hs b hne hfull.le).1]
    rcases Nat.lt_or_eq_of_le hk with hlate | rfl
    · exact race_after_C5 hs b hne hfull.le hlate
    · exact race_before_C5 hs b hne hfull.le le_rfl

/-- A POP of an empty ring that meets a PUSH before C2 returns its byte, as after it. -/
theorem race_empty_before_C2 {s : State} (hs : MicroRing s) (b : Byte) (hempty : s.w = s.r) :
    andThen (andThen (exec .pop s) (exec (.push b))) (microSteps 5) = andThen (pushAtomic b s) popAtomic := by
  have hzero := (availCount_eq_zero_iff hs).2 hempty
  have hpos := capacity_pos s.params
  have hr : (pushed b s).r = s.r := pushedReadIndex_of_room hs (by omega)
  have hne := pushed_w_ne hs b (by omega)
  have hordered : (pushed b s).params.reordered = false := hs.ordered
  rw [exec_pop_starts hs.micro, andThen_next, exec_push_setInFlight, andThen_next, microSteps_popC2,
    microSteps_popC3 _ _ hne, microSteps_finish_popC4 _ _ _ hordered, pushAtomic_eq_pushed hs b (by omega), andThen_next,
    popAtomic_eq_popDone (s := pushed b s) hs.idle (by rwa [hr]), hr]

/-- A PUSH once a POP of an empty ring has read both indices comes after it. -/
theorem race_empty_after_C2 {s : State} (hs : MicroRing s) (b : Byte) (hempty : s.w = s.r) (k : Nat) :
    andThen (andThen (andThen (exec .pop s) (microSteps (k + 1))) (exec (.push b))) (microSteps 5) =
      andThen (popAtomic s) (pushAtomic b) := by
  have hzero := (availCount_eq_zero_iff hs).2 hempty
  have hring : MicroRing (giveResult s (.pop (popResult true 0x00#8))) :=
    ⟨hs.configured, hs.writeIndex, hs.readIndex, hs.micro, hs.ordered, hs.idle⟩
  rw [popAtomic_empty hempty, andThen_next, pushAtomic_eq_pushed hring b (by
    change availCount s ≤ capacity s.params
    omega)]
  cases k with
  | zero =>
    have hbegun : andThen (exec .pop s) (microSteps 1) = .next (s.setInFlight (some (.popC3 s.r s.r))) := by
      rw [exec_pop_starts hs.micro, andThen_next, microSteps_popC2, hempty]
      rfl
    rw [hbegun, andThen_next, exec_push_setInFlight, andThen_next, microSteps_popC3_empty,
      setInFlight_none_of_idle (s := pushed b s) hs.idle]
    rfl
  | succ k =>
    rw [microSteps_pop_empty hs hempty, andThen_next, exec_push, andThen_next]
    exact microSteps_idle 5 hs.idle

/-- Settles O34: a POP that finds a byte returns the oldest wherever the PUSH lands, and one that finds none comes
after the PUSH exactly if that lands before C2. -/
theorem roomyRingRacesAreAtomic : Obligations.RoomyRingRacesAreAtomic := by
  unfold Obligations.RoomyRingRacesAreAtomic
  intro b k s hinv hmicro hordered hidle hroom raced
  have hs := microRing_of_invariant hinv hmicro hordered hidle
  by_cases hempty : s.w = s.r
  · cases k with
    | zero =>
      refine .inr (Eq.trans ?_ (race_empty_before_C2 hs b hempty))
      simp only [raced, exec_pop_starts hs.micro, andThen_next, microSteps]
    | succ k => exact .inl (race_empty_after_C2 hs b hempty k)
  · left
    rw [(popAtomic_then_push hs b hempty hroom.le).2]
    rcases Nat.lt_or_ge k 4 with hearly | hlate
    · have hbyte : popByte k s (pushed b s) = Memory.read s.buf (slotOf s.params s.r) := by
        rw [popByte]
        split_ifs
        · rw [read_pushed, if_neg (slotOf_w_ne hs hempty hroom)]
        · rfl
      exact hbyte ▸ race_before_C5 hs b hempty hroom.le (by omega)
    · exact race_after_C5 hs b hempty hroom.le hlate

/-! ## Several PUSHes inside a POP (R212) -/

/-- The state after PUSHes of the bytes, one after another. -/
def pushedAll (bs : List Byte) (s : State) : State := bs.foldl (fun t b => pushed b t) s

theorem execAll_pushes (bs : List Byte) (s : State) : execAll (bs.map Instr.push) s = .next (pushedAll bs s) := by
  induction bs generalizing s with
  | nil => rfl
  | cons b bs ih => exact (execAll_cons _ (exec_push b s)).trans (ih (pushed b s))

theorem pushedAll_setInFlight (bs : List Byte) (s : State) (o : Option MicroOp) :
    pushedAll bs (s.setInFlight o) = (pushedAll bs s).setInFlight o := by
  induction bs generalizing s with
  | nil => rfl
  | cons b bs ih => exact ih (pushed b s)

/-- PUSHes move the write index alone away from a given read index. -/
theorem availOf_pushedAll (bs : List Byte) {s : State} {r : Nat} (hw : s.w < indexModulus s.params)
    (hr : r < indexModulus s.params) (hfit : availOf s.params s.w r + bs.length < indexModulus s.params) :
    (pushedAll bs s).params = s.params ∧ (pushedAll bs s).w < indexModulus s.params ∧
      availOf s.params (pushedAll bs s).w r = availOf s.params s.w r + bs.length := by
  induction bs generalizing s with
  | nil => exact ⟨rfl, hw, rfl⟩
  | cons b bs ih =>
    rw [List.length_cons] at hfit ⊢
    have hnext := availOf_nextIndex_left s.params hw hr (by omega)
    obtain ⟨hparams, hw', hcount⟩ := ih (s := pushed b s) (nextIndex_lt _ _) hr (by
      change availOf s.params (nextIndex s.params s.w) r + _ < indexModulus s.params
      omega)
    refine ⟨hparams, hw', ?_⟩
    change availOf s.params (pushedAll bs (pushed b s)).w r = _
    change availOf s.params (pushedAll bs (pushed b s)).w r = availOf s.params (nextIndex s.params s.w) r + _ at hcount
    omega

section
variable {s : State} (hs : MicroRing s) (hfull : availCount s = capacity s.params)
include hs hfull

/-- C5 puts the read index after the byte the POP found oldest, however many the PUSHes have dropped since. -/
theorem race_many (bs : List Byte) {j : Nat} (hj : j ≤ 3)
    (hfit : capacity s.params + bs.length < indexModulus s.params) :
    ∃ t, andThen (andThen (andThen (exec .pop s) (microSteps j)) (execAll (bs.map Instr.push))) (microSteps 5) =
        .next t ∧ MicroRing t ∧ t.params = s.params ∧ t.r = nextIndex s.params s.r ∧
      availCount t + 1 = capacity s.params + bs.length := by
  have hne := ne_of_microRing_full hs hfull
  have hpos := capacity_pos s.params
  have hcount : availOf s.params s.w s.r = capacity s.params := hfull
  obtain ⟨hparams, hw, hsum⟩ := availOf_pushedAll bs hs.writeIndex hs.readIndex (by omega)
  have hu : (pushedAll bs s).w ≠ s.r := by
    rw [ne_eq, ← availOf_eq_zero s.params _ _ hw hs.readIndex]
    omega
  have hless := availOf_nextIndex_right s.params hw hs.readIndex hu
  have hrun : andThen (andThen (andThen (exec .pop s) (microSteps j)) (execAll (bs.map Instr.push))) (microSteps 5) =
      .next (popDone s.r (popByte j s (pushedAll bs s)) (pushedAll bs s)) := by
    rw [microSteps_begin_pop hs hne hj, andThen_next, execAll_pushes, andThen_next, pushedAll_setInFlight]
    exact microSteps_finish_pop hs hne hparams hu hj
  generalize popByte j s (pushedAll bs s) = v at hrun
  have hr : (popDone s.r v (pushedAll bs s)).r = nextIndex s.params s.r :=
    congrArg (fun p => nextIndex p s.r) hparams
  refine ⟨_, hrun, ⟨hparams ▸ hs.configured, hparams ▸ hw, ?_, hparams ▸ hs.micro, hparams ▸ hs.ordered, rfl⟩, hparams,
    hr, ?_⟩
  · rw [hr]
    exact hparams ▸ nextIndex_lt s.params s.r
  · have hfinal : availCount (popDone s.r v (pushedAll bs s)) =
        availOf s.params (pushedAll bs s).w (nextIndex s.params s.r) := by
      rw [availCount, hr]
      exact congrArg (fun p => availOf p _ _) hparams
    omega

/-- One PUSH between A1 and A2 takes a byte off the count that AVAIL finds. -/
theorem race_avail (b : Byte) : ∃ t, andThen (andThen (exec .avail s) (exec (.push b))) (microSteps 2) = .next t ∧
    t.results = s.results ++ [.avail (capacity s.params - 1)] := by
  have hless := availOf_nextIndex_right s.params hs.writeIndex hs.readIndex (ne_of_microRing_full hs hfull)
  have hcount : availOf s.params s.w (nextIndex s.params s.r) = capacity s.params - 1 := by
    change availOf s.params s.w s.r = _ at hfull
    omega
  have hr : (pushed b s).r = nextIndex s.params s.r := pushedReadIndex_of_full hs hfull
  rw [exec_avail_starts hs.micro, andThen_next, exec_push_setInFlight, andThen_next, microSteps_availA2, hr]
  exact ⟨_, rfl, congrArg (fun c => s.results ++ [.avail c]) hcount⟩

end

/-- Settles O35: the POP's C5 undoes the drops of the PUSHes but one, the next PUSH makes them good, and A2 sees the
drop of its one PUSH. -/
theorem raceMovesTheReadIndexBack : Obligations.RaceMovesTheReadIndexBack := by
  unfold Obligations.RaceMovesTheReadIndexBack
  intro s hinv hmicro hordered hidle hfull
  have hs := microRing_of_invariant hinv hmicro hordered hidle
  refine ⟨fun bs j htwo hfit hj => ?many, race_avail hs hfull⟩
  case many =>
    obtain ⟨t, hrun, ht, hparams, hr, hsum⟩ := race_many hs hfull bs hj hfit
    have hcount : availCount t = capacity s.params + bs.length - 1 := by omega
    refine ⟨t, hrun, ht.idle, hr, hcount, ⟨_, microSteps_avail ht, ?_⟩, fun b => ⟨_, exec_push b t, ?_⟩⟩
    · rw [← hcount]
      rfl
    · rw [availCount_pushed_of_full ht b (by rw [hparams]; omega), hparams]

end Sys2Proof.Proofs
end

section
/-! PROOFS. The display command surface: the shape of an expansion, its operands, and what its loads and its SHOW
leave (44_render.md R160 to R167). -/

namespace Sys2Proof.Proofs

open Sys2Proof Sys2Proof.Machine

/-! ## The shape of an expansion (R167) -/

theorem exists_symbols_of_expand {p : Pseudo} {is : List Instr} (h : expand p = .ok is) :
    ∃ syms, is = loadAndShow syms := by
  cases p with
  | text s sign => exact ⟨_, (Except.ok.inj h).symm⟩
  | numeric s => exact ⟨_, (Except.ok.inj h).symm⟩
  | decimal s => exact ⟨_, (Except.ok.inj h).symm⟩
  | time hh mm ss =>
    rw [expand] at h
    split_ifs at h
    exact ⟨_, (Except.ok.inj h).symm⟩
  | digits d =>
    rw [expand] at h
    split_ifs at h
    exact ⟨_, (Except.ok.inj h).symm⟩

/-- The load of one position. -/
def loadOf (p : Fin 8) (y : Symbol) : Instr := .loadpos (BitVec.ofNat 3 p.val) (symbolCode y)

theorem range_eight : List.range 8 = (List.finRange 8).map Fin.val := by decide

theorem loadAndShow_eq (syms : List Symbol) :
    loadAndShow syms = ((List.finRange 8).map fun q => loadOf q (syms.getD q.val .blank)) ++ [.showOut] := by
  rw [loadAndShow, range_eight, List.map_map]
  rfl

/-- A symbol's own code is never reserved (30_encoding.md R75, R76). -/
theorem reservedSymbol_symbolCode (y : Symbol) : reservedSymbol (symbolCode y) = false := by
  rw [Bool.eq_false_iff, ne_eq, ← symbolOf_eq_none_iff, symbolOf_symbolCode]
  simp

theorem decode_encode_foreground {i : Instr} (hwf : i.wellFormed = true) (hport : portOf i = .foreground) :
    decode (encode i) .foreground = .ok i := hport ▸ decodeOfEncode i hwf

theorem loadOf_wellFormed (p : Fin 8) (y : Symbol) : (loadOf p y).wellFormed = true := by
  rw [loadOf, Instr.wellFormed, reservedSymbol_symbolCode]
  rfl

/-- Settles O52: an expansion is eight loads and a SHOW, whose words decode as those of any well-formed operation. -/
theorem expansionsAreEightLoadsAndAShow : Obligations.ExpansionsAreEightLoadsAndAShow := by
  unfold Obligations.ExpansionsAreEightLoadsAndAShow
  intro p is h
  obtain ⟨syms, rfl⟩ := exists_symbols_of_expand h
  refine ⟨⟨eachOfEight fun q => syms.getD q.val .blank, ?shape⟩, fun i hi => ?words⟩
  case shape =>
    rw [loadAndShow_eq]
    simp only [eachOfEight_get, loadOf]
  case words =>
    rw [loadAndShow_eq, List.mem_append, List.mem_map, List.mem_singleton] at hi
    rcases hi with ⟨q, -, rfl⟩ | rfl
    · exact decode_encode_foreground (loadOf_wellFormed q _) rfl
    · exact decode_encode_foreground rfl rfl

/-! ## Text and time (R160, R164) -/

/-- The operand of a text ends at its first 0x00. -/
theorem textBody_append {body tail : List Byte} (hbody : ∀ c ∈ body, c ≠ 0x00#8)
    (htail : tail = [] ∨ tail.head? = some 0x00#8) : textBody (body ++ tail) = body := by
  have hkept : ∀ c ∈ body, (c != 0x00#8) = true := fun c hc => bne_iff_ne.2 (hbody c hc)
  rw [textBody, List.takeWhile_append_of_pos hkept]
  rcases htail with rfl | hhead
  · simp
  · obtain ⟨rest, rfl⟩ := List.head?_eq_some_iff.1 hhead
    simp

/-- Settles O56: each position takes the symbol of the byte at its own index, or BLANK. -/
theorem textTakesOnePositionAByte : Obligations.TextTakesOnePositionAByte := by
  unfold Obligations.TextTakesOnePositionAByte
  intro body tail sign hbody htail
  rw [expand_text, loadAndShow]
  congr 3
  funext p
  rw [List.getD_eq_getElem?_getD, textSymbols_getElem?, textBody_append hbody htail]
  cases body[p]? with
  | none => rfl
  | some c => rfl

/-- A decimal digit of an operand in range is the symbol of its ASCII byte. -/
theorem digitSymbol_eq_charSymbol {n : Nat} (hn : n < 10) : digitSymbol n = charSymbol (BitVec.ofNat 8 (0x30 + n)) := by
  have hdigit : digitSymbol n = .digit ⟨n, hn⟩ := by
    simp only [digitSymbol, Int.toNat_natCast, Nat.mod_eq_of_lt hn]
  rw [hdigit, ← charSymbol_digit ⟨n, hn⟩]

theorem ascii_ne_zero {n : Nat} (hn : n < 10) : BitVec.ofNat 8 (0x30 + n) ≠ 0x00#8 := by
  intro h
  have hval := congrArg BitVec.toNat h
  rw [BitVec.toNat_ofNat] at hval
  simp only [BitVec.toNat_ofNat] at hval
  omega

/-- Settles O57: the eight bytes hold no 0x00, and each stands for the symbol that the time has there. -/
theorem timeIsItsText : Obligations.TimeIsItsText := by
  unfold Obligations.TimeIsItsText
  intro hh mm ss tens ones
  have tensSymbol : ∀ v : Fin 100, digitSymbol ((v.val : Int) / 10) = charSymbol (tens v) := fun v =>
    digitSymbol_eq_charSymbol (n := v.val / 10) (by omega)
  have onesSymbol : ∀ v : Fin 100, digitSymbol ((v.val : Int) % 10) = charSymbol (ones v) := fun v =>
    digitSymbol_eq_charSymbol (n := v.val % 10) (by omega)
  have htens : ∀ v, tens v ≠ 0x00#8 := fun v => ascii_ne_zero (by omega)
  have hones : ∀ v, ones v ≠ 0x00#8 := fun v => ascii_ne_zero (by omega)
  have hrange : (0 ≤ (hh.val : Int) ∧ (hh.val : Int) ≤ 99) ∧ (0 ≤ (mm.val : Int) ∧ (mm.val : Int) ≤ 99) ∧
      (0 ≤ (ss.val : Int) ∧ (ss.val : Int) ≤ 99) := by omega
  have hbody : textBody [tens hh, ones hh, 0x2E#8, tens mm, ones mm, 0x2E#8, tens ss, ones ss] =
      [tens hh, ones hh, 0x2E#8, tens mm, ones mm, 0x2E#8, tens ss, ones ss] :=
    textBody_eq_self (by simp [htens, hones])
  have htext : textSymbols [tens hh, ones hh, 0x2E#8, tens mm, ones mm, 0x2E#8, tens ss, ones ss] false =
      timeSymbols hh.val mm.val ss.val := by
    simp only [textSymbols, hbody, timeSymbols, tensSymbol, onesSymbol, List.map_cons, List.map_nil, charSymbol_dot]
  rw [expand_text, htext]
  exact if_pos hrange

/-! ## Operands out of range (R164, R165) -/

theorem digits_inRange_iff (d : Vector Int 8) :
    (d.toList.all fun v => decide (0 ≤ v ∧ v ≤ 9)) = true ↔ ∀ q : Fin 8, 0 ≤ d[q] ∧ d[q] ≤ 9 := by
  simp only [List.all_eq_true, decide_eq_true_eq, Vector.mem_toList_iff, Vector.mem_iff_getElem]
  constructor
  · exact fun h q => h _ ⟨q.val, q.isLt, rfl⟩
  · rintro h v ⟨i, hi, rfl⟩
    exact h ⟨i, hi⟩

/-- The code of the digit symbol of a value from 0 to 9 is the value. -/
theorem symbolCode_digitSymbol {v : Int} (h : 0 ≤ v ∧ v ≤ 9) : symbolCode (digitSymbol v) = BitVec.ofNat 4 v.toNat := by
  have hmod : v.toNat % 10 = v.toNat := Nat.mod_eq_of_lt (by omega)
  simp only [digitSymbol, symbolCode, hmod]

theorem expand_digits {d : Vector Int 8} (h : ∀ q : Fin 8, 0 ≤ d[q] ∧ d[q] ≤ 9) :
    expand (.digits d) = .ok (((List.finRange 8).map fun q =>
      Instr.loadpos (BitVec.ofNat 3 q.val) (BitVec.ofNat 4 d[q].toNat)) ++ [.showOut]) := by
  rw [expand, if_pos ((digits_inRange_iff d).2 h), loadAndShow_eq]
  congr 3
  funext q
  have hsym : (d.toList.map digitSymbol).getD q.val .blank = digitSymbol d[q] := by simp
  rw [loadOf, hsym, symbolCode_digitSymbol (h q)]

/-- Settles O58: the two range checks, and the digit codes of values in range. -/
theorem rendersRefuseOutOfRangeOperands : Obligations.RendersRefuseOutOfRangeOperands := by
  unfold Obligations.RendersRefuseOutOfRangeOperands
  refine ⟨fun hh mm ss hout => ?time, fun d hout => ?digits, fun d => expand_digits, fun p hwf => ?wellFormed⟩
  case time =>
    rw [expand, if_neg (by omega)]
  case digits =>
    obtain ⟨q, hq⟩ := hout
    refine if_neg fun hall => ?_
    have hrange := (digits_inRange_iff d).1 hall q
    omega
  case wellFormed =>
    cases p with
    | text _ _ | numeric _ | decimal _ => exact ⟨_, rfl⟩
    | time hh mm ss => exact ⟨_, if_pos (of_decide_eq_true hwf)⟩
    | digits d => exact ⟨_, if_pos hwf⟩

/-! ## What an expansion shows (R124, 43_display_drive.md R144) -/

theorem execAll_append {is : List Instr} {s t : State} (js : List Instr) (h : execAll is s = .next t) :
    execAll (is ++ js) s = execAll js t := by
  induction is generalizing s with
  | nil =>
    obtain rfl : s = t := Host.Outcome.next.inj h
    rfl
  | cons i is ih =>
    obtain ⟨u, hexec, -⟩ := exec_frame i s
    rw [execAll_cons _ hexec] at h
    rw [List.cons_append, execAll_cons _ hexec, ih h]

theorem exec_loadOf (p : Fin 8) (y : Symbol) (s : State) : exec (loadOf p y) s = .next (loaded p y s) := by
  rw [loadOf, exec_loadpos_of_symbol _ s (symbolOf_symbolCode y), position_ofNat]

/-- Loads write DisplayCode alone, each its own register: one that is loaded holds its symbol, another what it held.
-/
theorem execAll_loads (y : Fin 8 → Symbol) (ps : List (Fin 8)) (s : State) :
    ∃ dcode, execAll (ps.map fun p => loadOf p (y p)) s = .next (s.setDcode dcode) ∧
      ∀ q : Fin 8, dcode[q] = if q ∈ ps then codeword s.params (y q) else s.dcode[q] := by
  induction ps generalizing s with
  | nil => exact ⟨s.dcode, rfl, fun q => by simp⟩
  | cons p ps ih =>
    obtain ⟨dcode, hrun, hloaded⟩ := ih (loaded p (y p) s)
    refine ⟨dcode, (execAll_cons _ (exec_loadOf p (y p) s)).trans hrun, fun q => ?_⟩
    rw [hloaded, loaded_dcode]
    by_cases hmem : q ∈ ps
    · rw [if_pos hmem, if_pos (List.mem_cons_of_mem p hmem)]
      rfl
    · by_cases hq : q = p
      · rw [if_neg hmem, if_pos hq, if_pos (by simp [hq]), hq]
      · rw [if_neg hmem, if_neg hq, if_neg (by simp [hq, hmem])]

/-- A register that holds a symbol's codeword, under the mask and the polarity. -/
theorem finalCode_of_symbol {s : State} {p : Fin 8} {y : Symbol} (h : s.dcode[p] = codeword s.params y) :
    finalCode s p =
      let c := if s.cfg.getLsbD p.val then codeword s.params y else 0x0000#16
      if s.cfg.getLsbD 8 then c ^^^ 0x0FFF#16 else c := by
  rw [finalCode_eq, maskedCode, h]

/-- Settles O59: the loads put every symbol's codeword into its register, and the SHOW presents the registers. -/
theorem renderShowsItsSymbols : Obligations.RenderShowsItsSymbols := by
  unfold Obligations.RenderShowsItsSymbols
  intro s syms
  obtain ⟨dcode, hloads, hloaded⟩ := execAll_loads (fun q => syms[q]) (List.finRange 8) s
  have hcode : ∀ q : Fin 8, (s.setDcode dcode).dcode[q] = codeword (s.setDcode dcode).params syms[q] := fun q =>
    (hloaded q).trans (if_pos (List.mem_finRange q))
  obtain ⟨t, hshow, hlines, -, -, hring, hcfg, hdcode, hresults, hcontrol⟩ :=
    showPresentsTheFinalCodes (s.setDcode dcode)
  have hsyms : (fun q : Fin 8 => loadOf q (syms.toList.getD q.val .blank)) = fun q => loadOf q syms[q] := by
    funext q
    simp
  have hrun : execAll (loadAndShow syms.toList) s = .next t := by
    rw [loadAndShow_eq, hsyms, execAll_append _ hloads, execAll_cons _ hshow, execAll]
  refine ⟨t, hrun, fun p l hl => ⟨?register, ?line⟩, hring, hcfg, hresults, hcontrol⟩
  case register =>
    rw [hdcode]
    exact hcode p
  case line =>
    rw [(hlines p l hl).1, finalCode_of_symbol (hcode p)]
    rfl

end Sys2Proof.Proofs
end

section
/-! PROOFS. The assembler (30_encoding.md R82). A line of plain words is read to its words and commas; a written
operand is read to the number or name it was written from; so a written line spells the statement of its operation,
and the statement assembles to the operation's word. -/

namespace Sys2Proof.Proofs

open Sys2Proof Sys2Proof.Machine

/-! ## Numbers and symbols in a statement -/

theorem fieldValue_toNat {n : Nat} (x : BitVec n) : fieldValue n x.toNat = some x := by
  have hrange : 0 ≤ (x.toNat : Int) ∧ (x.toNat : Int) < 2 ^ n := ⟨Int.natCast_nonneg _, by exact_mod_cast x.isLt⟩
  rw [fieldValue, if_pos hrange, Int.toNat_natCast, BitVec.ofNat_toNat, BitVec.setWidth_eq]

theorem fieldValue_of_out {n : Nat} {v : Int} (h : v < 0 ∨ 2 ^ n ≤ v) : fieldValue n v = none := by
  refine if_neg fun hrange => ?_
  obtain ⟨hnonneg, hlt⟩ := hrange
  rcases h with hneg | hge
  · exact absurd hneg (not_lt.2 hnonneg)
  · exact absurd hlt (not_lt.2 hge)

/-- The operand that writes a symbol. -/
def operandOfSymbol : Symbol → Operand
  | .digit d => .num d.val
  | .dot => .name .dot
  | .sign => .name .sign
  | .blank => .name .blank

theorem symbolOperand_operandOfSymbol (y : Symbol) : symbolOperand (operandOfSymbol y) = some y := by
  cases y with
  | digit d =>
    have hrange : 0 ≤ (d.val : Int) ∧ (d.val : Int) < 10 := by omega
    rw [operandOfSymbol, symbolOperand, dif_pos hrange]
    rfl
  | dot | sign | blank => rfl

theorem symbolOperand_eq_none {y : Operand} (hnum : ∀ v, y = .num v → v < 0 ∨ 9 < v) (hname : ∀ n, y ≠ .name n) :
    symbolOperand y = none := by
  cases y with
  | num v =>
    have hout := hnum v rfl
    exact dif_neg (by omega)
  | name n => exact absurd rfl (hname n)
  | str bytes => rfl

/-- The statement of a LOADPOS whose code names a symbol. -/
theorem statementOf_loadpos {sym : BitVec 4} {y : Symbol} (pos : BitVec 3) (h : symbolOf sym = some y) :
    statementOf (.loadpos pos sym) = some (.loadpos, [.num pos.toNat, operandOfSymbol y]) := by
  rw [statementOf, h]
  cases y <;> rfl

theorem assemble_loadpos (pos : BitVec 3) (y : Symbol) :
    assembleStatement .loadpos [.num pos.toNat, operandOfSymbol y] =
      some (.command (encode (.loadpos pos (symbolCode y)))) := by
  simp only [assembleStatement, fieldValue_toNat, symbolOperand_operandOfSymbol, Option.bind_some, Option.map_some]

theorem exists_symbol_of_wellFormed {pos : BitVec 3} {sym : BitVec 4} (h : (Instr.loadpos pos sym).wellFormed = true) :
    ∃ y, symbolOf sym = some y := by
  rw [← Option.ne_none_iff_exists', ne_eq, symbolOf_eq_none_iff]
  simpa [Instr.wellFormed] using h

/-- Every well-formed operation has a statement, which assembles to its word. -/
theorem exists_statement {i : Instr} (h : i.wellFormed = true) :
    ∃ m ops, statementOf i = some (m, ops) ∧ assembleStatement m ops = some (.command (encode i)) := by
  cases i with
  | push d => exact ⟨_, _, rfl, by rw [assembleStatement, fieldValue_toNat]; rfl⟩
  | setcfg en pol => exact ⟨_, _, rfl, by rw [assembleStatement, fieldValue_toNat, fieldValue_toNat]; rfl⟩
  | loadpos pos sym =>
    obtain ⟨y, hy⟩ := exists_symbol_of_wellFormed h
    obtain rfl := symbolCode_of_symbolOf sym y hy
    exact ⟨_, _, statementOf_loadpos pos hy, assemble_loadpos pos y⟩
  | shift d => exact ⟨_, _, rfl, by rw [assembleStatement, fieldValue_toNat]; rfl⟩
  | pop | avail | showOut | latch => exact ⟨_, _, rfl, rfl⟩

/-! ## Reading a line -/

/-- The quote, which opens a string. -/
abbrev quoteChar : Char := Char.ofNat 34

/-- The characters a word is made of: no separator, no quote and no start of a comment. -/
def Plain (cs : List Char) : Prop := ∀ c ∈ cs, c ≠ ';' ∧ c ≠ ',' ∧ c ≠ quoteChar ∧ isBlankChar c = false

/-- Letters and digits are plain. -/
theorem plain_of_alphanum {cs : List Char} (h : cs.all Char.isAlphanum = true) : Plain cs := by
  intro c hc
  have halnum : c.isAlphanum = true := List.all_eq_true.1 h c hc
  have other (d : Char) (hd : d.isAlphanum = false) : c ≠ d := by
    rintro rfl
    exact absurd (halnum.symm.trans hd) (by simp)
  exact ⟨other _ rfl, other _ rfl, other _ rfl,
    by simp [isBlankChar, other ' ' rfl, other '\t' rfl, other '\r' rfl]⟩

theorem lexLine_inWord_append {cs : List Char} (hplain : Plain cs) (acc rest : List Char) :
    lexLine (.inWord acc) (cs ++ rest) = lexLine (.inWord (cs.reverse ++ acc)) rest := by
  induction cs generalizing acc with
  | nil => rfl
  | cons c cs ih =>
    obtain ⟨hsemi, hcomma, hquote, hblank⟩ := hplain c (by simp)
    rw [List.cons_append, lexLine, if_neg hsemi, if_neg (by simp [hblank]), if_neg hcomma, if_neg hquote,
      ih (fun d hd => hplain d (by simp [hd])), List.reverse_cons, List.append_assoc]
    rfl

/-- Reading a word leaves the reader inside it, with its characters. -/
theorem lexLine_word_append {cs : List Char} (hne : cs ≠ []) (hplain : Plain cs) (rest : List Char) :
    lexLine .between (cs ++ rest) = lexLine (.inWord cs.reverse) rest := by
  obtain ⟨c, cs, rfl⟩ := List.exists_cons_of_ne_nil hne
  obtain ⟨hsemi, hcomma, hquote, hblank⟩ := hplain c (by simp)
  rw [List.cons_append, lexLine, if_neg hsemi, if_neg (by simp [hblank]), if_neg hcomma, if_neg hquote,
    lexLine_inWord_append (fun d hd => hplain d (by simp [hd])), List.reverse_cons]

section
variable {cs : List Char} (hne : cs ≠ []) (hplain : Plain cs)
include hne hplain

theorem lexLine_word : lexLine .between cs = some [.word cs] := by
  have h := lexLine_word_append hne hplain []
  rwa [List.append_nil, lexLine, List.reverse_reverse] at h

theorem lexLine_word_space (rest : List Char) :
    lexLine .between (cs ++ ' ' :: rest) = (lexLine .between rest).map fun ts => .word cs :: ts := by
  rw [lexLine_word_append hne hplain, lexLine, if_neg (by decide), if_pos (by decide), List.reverse_reverse]

theorem lexLine_word_comma (rest : List Char) :
    lexLine .between (cs ++ ',' :: rest) = (lexLine .between rest).map fun ts => .word cs :: .comma :: ts := by
  rw [lexLine_word_append hne hplain, lexLine, if_neg (by decide), if_neg (by decide), if_pos rfl, List.reverse_reverse]

end

theorem lexLine_space (rest : List Char) : lexLine .between (' ' :: rest) = lexLine .between rest := by
  rw [lexLine, if_neg (by decide), if_pos (by decide)]

/-- A comment adds nothing to a line that can be read, wherever in it the reader stands. -/
theorem lexLine_comment (comment : List Char) {st : LexState} {cs : List Char} {ts : List Token}
    (h : lexLine st cs = some ts) : lexLine st (cs ++ ';' :: comment) = some ts := by
  induction cs generalizing st ts with
  | nil =>
    cases st with
    | between => simpa [lexLine] using h
    | inWord acc => simpa [lexLine] using h
    | inString acc => simp [lexLine] at h
  | cons c cs ih =>
    have later {st : LexState} {f : List Token → List Token} (hmap : (lexLine st cs).map f = some ts) :
        (lexLine st (cs ++ ';' :: comment)).map f = some ts := by
      obtain ⟨us, hus, hf⟩ := Option.map_eq_some_iff.1 hmap
      rw [ih hus, Option.map_some, hf]
    rw [List.cons_append]
    cases st with
    | between =>
      rw [lexLine] at h ⊢
      split_ifs at h ⊢
      · exact h
      · exact ih h
      · exact later h
      · exact ih h
      · exact ih h
    | inWord acc =>
      rw [lexLine] at h ⊢
      split_ifs at h ⊢
      · exact h
      · exact later h
      · exact later h
      · exact ih h
    | inString acc =>
      rw [lexLine] at h ⊢
      split_ifs at h ⊢
      · exact later h
      · exact ih h

theorem assembleLine_comment (line comment : List Char) (r : Option Request) (h : assembleLine line = some r) :
    assembleLine (line ++ ';' :: comment) = some r := by
  cases hlex : lexLine .between line with
  | none => simp [assembleLine, hlex] at h
  | some ts =>
    rw [assembleLine, hlex] at h
    rw [assembleLine, lexLine_comment comment hlex]
    exact h

/-! ## Written operands -/

theorem writtenDigit_plain (n : Nat) (hn : n < 16) : Plain [writtenDigit n] := by
  have halnum : ∀ k < 16, [writtenDigit k].all Char.isAlphanum = true := by decide
  exact plain_of_alphanum (halnum n hn)

theorem digitValue_writtenDigit : ∀ n < 16, digitValue 16 (writtenDigit n) = some n := by decide

theorem numberOf_writtenDigit : ∀ n < 10, numberOf [writtenDigit n] = some (n : Int) := by decide

theorem plain_append {cs ds : List Char} (hcs : Plain cs) (hds : Plain ds) : Plain (cs ++ ds) := fun c hc =>
  (List.mem_append.1 hc).elim (hcs c) (hds c)

theorem writtenByte_plain (b : Byte) : Plain (writtenByte b) := by
  have hb := b.isLt
  have hstart : Plain ['0', 'x'] := plain_of_alphanum rfl
  exact plain_append hstart (plain_append (writtenDigit_plain (b.toNat / 16) (by omega))
    (writtenDigit_plain (b.toNat % 16) (by omega)))

theorem numberOf_writtenByte (b : Byte) : numberOf (writtenByte b) = some (b.toNat : Int) := by
  have hb := b.isLt
  have hvalue : naturalOf (writtenByte b) = some b.toNat := by
    simp only [writtenByte, naturalOf, digitsValue, digitValue_writtenDigit (b.toNat / 16) (by omega),
      digitValue_writtenDigit (b.toNat % 16) (by omega), Option.bind_some]
    congr 1
    omega
  simp only [writtenByte] at hvalue ⊢
  simp [numberOf, hvalue]

theorem operandOf_of_number {cs : List Char} {v : Int} (h : numberOf cs = some v) :
    operandOf (.word cs) = some (.num v) := by rw [operandOf, h]

theorem writtenSymbol_spec (y : Symbol) :
    writtenSymbol y ≠ [] ∧ Plain (writtenSymbol y) ∧ operandOf (.word (writtenSymbol y)) = some (operandOfSymbol y) := by
  cases y with
  | digit d =>
    have hd := d.isLt
    exact ⟨List.cons_ne_nil _ _, writtenDigit_plain d.val (by omega),
      operandOf_of_number (numberOf_writtenDigit d.val hd)⟩
  | dot | sign | blank => exact ⟨List.cons_ne_nil _ _, plain_of_alphanum rfl, by decide⟩

/-! ## Written lines -/

/-- A line that reads as a mnemonic and operands is the statement of these. -/
theorem assembleLine_eq_statement {line m : List Char} {rest : List Token} {k : Mnemonic} {ops : List Operand}
    (hlex : lexLine .between line = some (.word m :: rest)) (hk : mnemonicNames.lookup m = some k)
    (hops : operandsOf rest = some ops) : assembleLine line = (assembleStatement k ops).map some := by
  rw [assembleLine, hlex]
  simp only [hk, hops, Option.bind_some]

theorem operandsOf_one {t : Token} {o : Operand} (h : operandOf t = some o) : operandsOf [t] = some [o] := by
  rw [operandsOf, h, Option.map_some]

theorem operandsOf_two {t u : Token} {o p : Operand} (ht : operandOf t = some o) (hu : operandOf u = some p) :
    operandsOf [t, .comma, u] = some [o, p] := by
  rw [operandsOf, ht, operandsOf_one hu]
  rfl

section
variable {m : List Char} (hne : m ≠ []) (hm : Plain m)
include hne hm

theorem lexLine_one_operand {a : List Char} (ha : a ≠ []) (hpa : Plain a) :
    lexLine .between (m ++ ' ' :: a) = some [.word m, .word a] := by
  rw [lexLine_word_space hne hm, lexLine_word ha hpa, Option.map_some]

theorem lexLine_two_operands {a : List Char} (ha : a ≠ []) (hpa : Plain a) (rest : List Char) :
    lexLine .between (m ++ ' ' :: (a ++ ',' :: ' ' :: rest)) =
      (lexLine .between rest).map fun ts => .word m :: .word a :: .comma :: ts := by
  rw [lexLine_word_space hne hm, lexLine_word_comma ha hpa, lexLine_space, Option.map_map]
  rfl

end

theorem lexLine_loadpos (pos : Nat) (hpos : pos < 8) (word : List Char) :
    lexLine .between (writtenLoadpos pos ++ word) = (lexLine .between word).map fun ts =>
      .word ['L', 'O', 'A', 'D', 'P', 'O', 'S'] :: .word [writtenDigit pos] :: .comma :: ts :=
  lexLine_two_operands (m := ['L', 'O', 'A', 'D', 'P', 'O', 'S']) (List.cons_ne_nil _ _) (plain_of_alphanum rfl)
    (a := [writtenDigit pos]) (List.cons_ne_nil _ _) (writtenDigit_plain pos (by omega)) word

/-- A line spells an operation: it is read as the operation's statement. -/
def Spells (line : List Char) (i : Instr) : Prop :=
  ∀ k ops, statementOf i = some (k, ops) → assembleLine line = (assembleStatement k ops).map some

theorem spells_of_statement {line : List Char} {i : Instr} {k : Mnemonic} {ops : List Operand}
    (hi : statementOf i = some (k, ops)) (hline : assembleLine line = (assembleStatement k ops).map some) :
    Spells line i := fun k' ops' h => by
  obtain ⟨rfl, rfl⟩ := Prod.mk.inj (Option.some.inj (hi.symm.trans h))
  exact hline

/-- A mnemonic alone spells an operation without operands. -/
theorem spells_mnemonic {m : List Char} {k : Mnemonic} {i : Instr} (hne : m ≠ []) (hm : Plain m)
    (hk : mnemonicNames.lookup m = some k) (hi : statementOf i = some (k, [])) : Spells m i :=
  spells_of_statement hi (assembleLine_eq_statement (lexLine_word hne hm) hk rfl)

/-- A mnemonic and a byte spell an operation with one byte of data. -/
theorem spells_byte {m : List Char} {k : Mnemonic} {i : Instr} (d : Byte) (hne : m ≠ []) (hm : Plain m)
    (hk : mnemonicNames.lookup m = some k) (hi : statementOf i = some (k, [.num d.toNat])) :
    Spells (m ++ ' ' :: writtenByte d) i :=
  spells_of_statement hi (assembleLine_eq_statement
    (lexLine_one_operand hne hm (List.cons_ne_nil _ _) (writtenByte_plain d)) hk
    (operandsOf_one (operandOf_of_number (numberOf_writtenByte d))))

theorem spells_setcfg (en : Byte) (pol : BitVec 1) :
    Spells (['S', 'E', 'T', 'C', 'F', 'G'] ++ ' ' :: (writtenByte en ++ ',' :: ' ' :: [writtenDigit pol.toNat]))
      (.setcfg en pol) := by
  have hpol := pol.isLt
  have hlex := lexLine_two_operands (m := ['S', 'E', 'T', 'C', 'F', 'G']) (List.cons_ne_nil _ _)
    (plain_of_alphanum rfl) (List.cons_ne_nil _ _) (writtenByte_plain en) [writtenDigit pol.toNat]
  rw [lexLine_word (List.cons_ne_nil _ _) (writtenDigit_plain pol.toNat (by omega)), Option.map_some] at hlex
  exact spells_of_statement rfl (assembleLine_eq_statement hlex rfl
    (operandsOf_two (operandOf_of_number (numberOf_writtenByte en))
      (operandOf_of_number (numberOf_writtenDigit pol.toNat (by omega)))))

theorem spells_loadpos {sym : BitVec 4} {y : Symbol} (pos : BitVec 3) (hy : symbolOf sym = some y) :
    Spells (writtenLoadpos pos.toNat ++ writtenSymbol y) (.loadpos pos sym) := by
  obtain ⟨hne, hplain, hoperand⟩ := writtenSymbol_spec y
  have hpos := pos.isLt
  have hlex := lexLine_loadpos pos.toNat hpos (writtenSymbol y)
  rw [lexLine_word hne hplain, Option.map_some] at hlex
  exact spells_of_statement (statementOf_loadpos pos hy) (assembleLine_eq_statement hlex rfl
    (operandsOf_two (operandOf_of_number (numberOf_writtenDigit pos.toNat (by omega))) hoperand))

/-- Every well-formed operation has a written line, which spells it. -/
theorem exists_line {i : Instr} (h : i.wellFormed = true) : ∃ line, writtenLine i = some line ∧ Spells line i := by
  cases i with
  | push d =>
    exact ⟨_, rfl, spells_byte d (m := ['P', 'U', 'S', 'H']) (List.cons_ne_nil _ _) (plain_of_alphanum rfl) rfl rfl⟩
  | shift d =>
    exact ⟨_, rfl, spells_byte d (m := ['S', 'H', 'I', 'F', 'T']) (List.cons_ne_nil _ _) (plain_of_alphanum rfl) rfl rfl⟩
  | setcfg en pol => exact ⟨_, rfl, spells_setcfg en pol⟩
  | loadpos pos sym =>
    obtain ⟨y, hy⟩ := exists_symbol_of_wellFormed h
    exact ⟨_, by rw [writtenLine, hy, Option.map_some], spells_loadpos pos hy⟩
  | pop | avail | showOut | latch =>
    exact ⟨_, rfl, spells_mnemonic (List.cons_ne_nil _ _) (plain_of_alphanum rfl) rfl rfl⟩

/-! ## Operands that fit no field or symbol -/

theorem assemble_loadpos_of_symbol_none (pos : Int) {y : Operand} (h : symbolOperand y = none) :
    assembleStatement .loadpos [.num pos, y] = none := by
  rw [assembleStatement, h]
  simp

/-- A word that is neither a number nor a symbol's name is no operand. -/
theorem operandOf_eq_none {word : List Char} (hnumber : numberOf word = none) (hdot : word ≠ ['D', 'O', 'T'])
    (hsign : word ≠ ['S', 'I', 'G', 'N']) (hblank : word ≠ ['B', 'L', 'A', 'N', 'K']) :
    operandOf (.word word) = none := by
  have hname : symbolNames.lookup word = none := by
    simp [symbolNames, List.lookup, beq_eq_false_iff_ne.2 hdot, beq_eq_false_iff_ne.2 hsign,
      beq_eq_false_iff_ne.2 hblank]
  rw [operandOf, hnumber, hname, Option.map_none]

/-- A LOADPOS line whose last word is no symbol is rejected, as is one with no last word. -/
theorem assembleLine_loadpos_eq_none (pos : Fin 8) {word : List Char} (hplain : Plain word)
    (hnumber : ∀ v, numberOf word = some v → v < 0 ∨ 9 < v) (hdot : word ≠ ['D', 'O', 'T'])
    (hsign : word ≠ ['S', 'I', 'G', 'N']) (hblank : word ≠ ['B', 'L', 'A', 'N', 'K']) :
    assembleLine (writtenLoadpos pos.val ++ word) = none := by
  have hpos := pos.isLt
  have hlex := lexLine_loadpos pos.val hpos word
  have hfirst := operandOf_of_number (numberOf_writtenDigit pos.val (by omega))
  by_cases hempty : word = []
  · subst hempty
    rw [lexLine, Option.map_some] at hlex
    rw [assembleLine, hlex]
    rfl
  · rw [lexLine_word hempty hplain, Option.map_some] at hlex
    cases hvalue : numberOf word with
    | some v =>
      rw [assembleLine_eq_statement hlex rfl (operandsOf_two hfirst (operandOf_of_number hvalue)),
        assemble_loadpos_of_symbol_none pos.val (symbolOperand_eq_none (fun u hu => by
          obtain rfl := Operand.num.inj hu
          exact hnumber v hvalue) (by simp))]
      rfl
    | none =>
      rw [assembleLine, hlex]
      simp [operandsOf, operandOf_eq_none hvalue hdot hsign hblank]

/-- Settles O5: statements and lines of well-formed operations, comments, and each operand out of its field or
symbols. -/
theorem assemblerSpellsEveryOperation : Obligations.AssemblerSpellsEveryOperation := by
  unfold Obligations.AssemblerSpellsEveryOperation
  refine ⟨fun i hwf => ⟨exists_statement hwf, ?line⟩, assembleLine_comment, fun v hv => ?byte, fun en pol hpol => ?pol,
    fun pos y hpos => ?pos, fun pos y hnum hname => ?symbol, fun pos word hplain => ?word⟩
  case line =>
    obtain ⟨m, ops, hstatement, hword⟩ := exists_statement hwf
    obtain ⟨line, hline, hspells⟩ := exists_line hwf
    exact ⟨line, hline, by rw [hspells m ops hstatement, hword, Option.map_some]⟩
  case byte =>
    have hout : fieldValue 8 v = none := fieldValue_of_out (by omega)
    exact ⟨by rw [assembleStatement, hout]; rfl, by rw [assembleStatement, hout]; rfl,
      fun pol => by rw [assembleStatement, hout]; rfl⟩
  case pol =>
    rw [assembleStatement, fieldValue_of_out (n := 1) (v := pol) (by omega)]
    simp
  case pos =>
    rw [assembleStatement, fieldValue_of_out (n := 3) (v := pos) (by omega)]
    rfl
  case symbol => exact assemble_loadpos_of_symbol_none pos (symbolOperand_eq_none hnum hname)
  case word => exact assembleLine_loadpos_eq_none pos hplain

end Sys2Proof.Proofs
end
